-- ==== Sys2Proof/Word.lean ====
section
/-! DEFINITION. The words of the machine: bytes and 16-bit transaction words (spec/00_scope.md R6, R7; spec/30_encoding.md R117). -/

namespace Sys2Proof

/-- A byte, bits 7 down to 0 (R6). Every register value is one, unsigned (R7). -/
abbrev Byte := BitVec 8

/-- A 16-bit transaction word of the bus script (R117). -/
abbrev Word16 := BitVec 16

end Sys2Proof
end

