-- ==== Sys2Proof/Config.lean ====
section
/-! DEFINITION. The parameters of spec/00_scope.md R5: the constants this hardware fixes, and the values it leaves open
(opaque constants with no body: nothing can be proved of them). -/

namespace Sys2Proof

/-- Direction of a head step: `inward` is the spec's `In` (towards higher tracks), `outward` its `Out` (R34). -/
inductive Dir where
  | inward
  | outward
deriving DecidableEq, Repr, Inhabited

/-- The command classes of spec/30_encoding.md R93, the two reserved nibbles apart. -/
inductive CmdClass where
  | restore
  | seek
  | step
  | stepIn
  | stepOut
  | readSector
  | writeSector
  | readAddress
  | forceInterrupt
  | reservedE
  | reservedF
deriving DecidableEq, Repr

/-- One entry of GEOMETRY_TABLE (R5): an image size and how it is cut into sectors. -/
structure Geometry where
  size : Nat
  secSize : Nat
  secCount : Nat
  trackCount : Nat
deriving DecidableEq, Repr

/-- GEOMETRY_TABLE: "204800 bytes = 40 tracks × 5 sectors × 1024 bytes" (R5). -/
def Config.geometryTable : List Geometry := [⟨204800, 1024, 5, 40⟩]

/-- MAX_SEC_SIZE, the capacity of the staging buffer (R5). -/
def Config.maxSecSize : Nat := 1024

/-- CARD_ID, the byte read at offset 0xF (R5, R39). -/
def Config.cardId : Byte := 0x10#8

/-- UNUSED_READ, the byte read at offsets 0x4 to 0xE (R5). -/
def Config.unusedRead : Byte := 0xFF#8

/-- DEFAULT_TRACK_COUNT, the bound on head movement with no image attached (R5, D12; UNVERIFIED, log 16). -/
def Config.defaultTrackCount : Nat := 40

/-- RA_LEN, how many bytes a Read Address transfers (R5, D19; UNVERIFIED, log 17). -/
def Config.raLen : Nat := 6

/-- STEP_DIR_RESET, OPEN in the spec (R5, R34, D14): one of the two directions, the same at every reset (log 4). -/
opaque Config.stepDirReset : Dir

/-- RA_CRC, first byte, of the `n`th Read Address descriptor: any value (R181, D19; log 5). -/
opaque Config.raCrc1 : Nat → Byte

/-- RA_CRC, second byte, of the `n`th Read Address descriptor: any value (R181, D19; log 5). -/
opaque Config.raCrc2 : Nat → Byte

/-- Byte 3 of the `n`th Read Address descriptor where the sector size has no length code: any value (R181, U8; log 6). -/
opaque Config.raLengthCode : Nat → Byte

/-- What `stage[i]` reads as for an `i` past the buffer: the spec has no such byte, and no reachable state reads one (R41; log 7). -/
opaque Config.stageBeyond : Nat → Byte

end Sys2Proof
end

