-- ==== Sys2Proof/Syntax.lean ====
section
/-! DEFINITION. The instructions: one constructor per mnemonic of spec/opcode_table.json. The first eleven are the command
bytes (spec/30_encoding.md R93 to R97), each with every flag bit of its byte, whether or not the bit has an effect; the
rest are the bus transactions (R91). The eleven rows of WR_UNUSED, and of RD_UNUSED, differ in the offset alone, which is
an operand here (log 28). -/

namespace Sys2Proof

inductive Instr where
  /-- RESTORE `0000hVrr` (R142). -/
  | restore (h v : Bool) (r : BitVec 2)
  /-- SEEK `0001hVrr` (R143). -/
  | seek (h v : Bool) (r : BitVec 2)
  /-- STEP `001ThVrr` (R145). -/
  | step (t h v : Bool) (r : BitVec 2)
  /-- STEP_IN `010ThVrr` (R146). -/
  | stepIn (t h v : Bool) (r : BitVec 2)
  /-- STEP_OUT `011ThVrr` (R147). -/
  | stepOut (t h v : Bool) (r : BitVec 2)
  /-- READ_SECTOR `100mLEUx` (R160). -/
  | readSector (m l e u x : Bool)
  /-- WRITE_SECTOR `101mLEUa` (R161). -/
  | writeSector (m l e u a : Bool)
  /-- READ_ADDRESS `1100xEUx` (R180): bit 3, E, U, bit 0. -/
  | readAddress (x3 e u x0 : Bool)
  /-- FORCE_INTERRUPT `1101IIII` (R183): I3, I2, I1, I0. -/
  | forceInterrupt (i3 i2 i1 i0 : Bool)
  /-- RESERVED_E `1110xxxx` (R185). -/
  | reservedE (x : BitVec 4)
  /-- RESERVED_F `1111xxxx` (R185). -/
  | reservedF (x : BitVec 4)
  /-- WR_COMMAND: `IoWrite(0x0, c)` (R121). -/
  | wrCommand (c : Byte)
  /-- RD_STATUS: `IoRead(0x0)` (R216). -/
  | rdStatus
  /-- WR_TRACK: `IoWrite(0x1, d)` (R124). -/
  | wrTrack (d : Byte)
  /-- RD_TRACK: `IoRead(0x1)` (R123). -/
  | rdTrack
  /-- WR_SECTOR: `IoWrite(0x2, d)` (R126). -/
  | wrSector (d : Byte)
  /-- RD_SECTOR: `IoRead(0x2)` (R125). -/
  | rdSector
  /-- WR_DATA: `IoWrite(0x3, d)` (R191). -/
  | wrData (d : Byte)
  /-- RD_DATA: `IoRead(0x3)` (R190). -/
  | rdData
  /-- WR_UNUSED: `IoWrite(off, d)` with 0x4 <= off <= 0xE (R130). -/
  | wrUnused (off : BitVec 4) (d : Byte)
  /-- RD_UNUSED: `IoRead(off)` with 0x4 <= off <= 0xE (R129). -/
  | rdUnused (off : BitVec 4)
  /-- WR_CONTROL: `IoWrite(0xF, d)` (R131). -/
  | wrControl (d : Byte)
  /-- RD_ID: `IoRead(0xF)` (R132). -/
  | rdId
deriving DecidableEq, Repr

end Sys2Proof
end

