-- ==== Sys2Proof/WellFormed.lean ====
section
/-! DEFINITION. Which terms of Instr are instructions. Every operand field is as wide as its place in the encoding, so one
check remains: the offset of an unused access is one of 0x4 to 0xE (spec/30_encoding.md R91, R105). -/

namespace Sys2Proof

/-- The reserved offsets of the I/O window (R105). -/
def unusedOffset (off : BitVec 4) : Bool := decide (0x4 ≤ off.toNat) && decide (off.toNat ≤ 0xE)

/-- Well-formedness: an unused access names an unused offset; every other term is an instruction. -/
def Instr.wellFormed : Instr → Bool
  | .wrUnused off _ => unusedOffset off
  | .rdUnused off => unusedOffset off
  | .restore _ _ _ | .seek _ _ _ | .step _ _ _ _ | .stepIn _ _ _ _ | .stepOut _ _ _ _ => true
  | .readSector _ _ _ _ _ | .writeSector _ _ _ _ _ | .readAddress _ _ _ _ => true
  | .forceInterrupt _ _ _ _ | .reservedE _ | .reservedF _ => true
  | .wrCommand _ | .rdStatus | .wrTrack _ | .rdTrack | .wrSector _ | .rdSector => true
  | .wrData _ | .rdData | .wrControl _ | .rdId => true

/-- `Instr.wellFormed` as a proposition. -/
abbrev Instr.WellFormed (i : Instr) : Prop := i.wellFormed = true

end Sys2Proof
end

