-- ==== Sys2Proof/Decode.lean ====
section
/-! DEFINITION. Decoding and encoding (spec/30_encoding.md R90 to R97, R117). A frame is the bytes of one instruction as
spec/opcode_table.json counts them: one byte, a command byte; or two bytes, a transaction word, low byte first. Decoding
is total and rejects by name what is neither. After the decoder, the encoder, from the same tables. -/

namespace Sys2Proof

/-- Why a frame is no instruction. -/
inductive DecodeError where
  /-- No byte at all. -/
  | emptyFrame
  /-- More than the two bytes of a transaction word. -/
  | frameTooLong
  /-- Bits 14:12 of a transaction word are not 0 (R117): no offset above 0xF reaches the block (R61). -/
  | reservedBits
  /-- The word of an `IoRead` carries a value in bits 7:0, which R117 gives as 0x00. -/
  | readCarriesValue
deriving DecidableEq, Repr

/-- The class table of R93, by the high nibble; all 256 bytes fall in one row. The values are the spec's decision D2
(UNVERIFIED, log 12); this is their one home. -/
def commandClass (c : Byte) : CmdClass :=
  match (c >>> 4).toNat with
  | 0x0 => .restore
  | 0x1 => .seek
  | 0x2 => .step
  | 0x3 => .step
  | 0x4 => .stepIn
  | 0x5 => .stepIn
  | 0x6 => .stepOut
  | 0x7 => .stepOut
  | 0x8 => .readSector
  | 0x9 => .readSector
  | 0xA => .writeSector
  | 0xB => .writeSector
  | 0xC => .readAddress
  | 0xD => .forceInterrupt
  | 0xE => .reservedE
  | _ => .reservedF

/-- A command byte, decoded: the class of R93 with the flags of formats I to IV (R94 to R97). -/
def decodeCommand (c : Byte) : Instr :=
  match commandClass c with
  | .restore => .restore (c.getLsbD 3) (c.getLsbD 2) (c.extractLsb' 0 2)
  | .seek => .seek (c.getLsbD 3) (c.getLsbD 2) (c.extractLsb' 0 2)
  | .step => .step (c.getLsbD 4) (c.getLsbD 3) (c.getLsbD 2) (c.extractLsb' 0 2)
  | .stepIn => .stepIn (c.getLsbD 4) (c.getLsbD 3) (c.getLsbD 2) (c.extractLsb' 0 2)
  | .stepOut => .stepOut (c.getLsbD 4) (c.getLsbD 3) (c.getLsbD 2) (c.extractLsb' 0 2)
  | .readSector => .readSector (c.getLsbD 4) (c.getLsbD 3) (c.getLsbD 2) (c.getLsbD 1) (c.getLsbD 0)
  | .writeSector => .writeSector (c.getLsbD 4) (c.getLsbD 3) (c.getLsbD 2) (c.getLsbD 1) (c.getLsbD 0)
  | .readAddress => .readAddress (c.getLsbD 3) (c.getLsbD 2) (c.getLsbD 1) (c.getLsbD 0)
  | .forceInterrupt => .forceInterrupt (c.getLsbD 3) (c.getLsbD 2) (c.getLsbD 1) (c.getLsbD 0)
  | .reservedE => .reservedE (c.extractLsb' 0 4)
  | .reservedF => .reservedF (c.extractLsb' 0 4)

/-- Write dispatch, the `IoWrite` column of R91. -/
def decodeWrite (off : BitVec 4) (d : Byte) : Instr :=
  match off.toNat with
  | 0x0 => .wrCommand d
  | 0x1 => .wrTrack d
  | 0x2 => .wrSector d
  | 0x3 => .wrData d
  | 0xF => .wrControl d
  | _ => .wrUnused off d

/-- Read dispatch, the `IoRead` column of R91. -/
def decodeRead (off : BitVec 4) : Instr :=
  match off.toNat with
  | 0x0 => .rdStatus
  | 0x1 => .rdTrack
  | 0x2 => .rdSector
  | 0x3 => .rdData
  | 0xF => .rdId
  | _ => .rdUnused off

/-- A transaction word, decoded (R117): bit 15 says write, bits 11:8 are the offset, bits 7:0 the byte of a write. -/
def decodeTransaction (w : Word16) : Except DecodeError Instr :=
  if w.extractLsb' 12 3 ≠ 0#3 then .error .reservedBits
  else if w.getLsbD 15 then .ok (decodeWrite (w.extractLsb' 8 4) (w.extractLsb' 0 8))
  else if w.extractLsb' 0 8 ≠ 0#8 then .error .readCarriesValue
  else .ok (decodeRead (w.extractLsb' 8 4))

/-- The decoder of a frame. -/
def decode : List Byte → Except DecodeError Instr
  | [] => .error .emptyFrame
  | [c] => .ok (decodeCommand c)
  | [lo, hi] => decodeTransaction (hi ++ lo)
  | _ :: _ :: _ :: _ => .error .frameTooLong

/-- The command byte `0000hVrr` (R94). -/
def restoreByte (h v : Bool) (r : BitVec 2) : Byte := 0b0000#4 ++ BitVec.ofBool h ++ BitVec.ofBool v ++ r

/-- The command byte `0001hVrr` (R94). -/
def seekByte (h v : Bool) (r : BitVec 2) : Byte := 0b0001#4 ++ BitVec.ofBool h ++ BitVec.ofBool v ++ r

/-- The command byte `001ThVrr` (R94). -/
def stepByte (t h v : Bool) (r : BitVec 2) : Byte :=
  0b001#3 ++ BitVec.ofBool t ++ BitVec.ofBool h ++ BitVec.ofBool v ++ r

/-- The command byte `010ThVrr` (R94). -/
def stepInByte (t h v : Bool) (r : BitVec 2) : Byte :=
  0b010#3 ++ BitVec.ofBool t ++ BitVec.ofBool h ++ BitVec.ofBool v ++ r

/-- The command byte `011ThVrr` (R94). -/
def stepOutByte (t h v : Bool) (r : BitVec 2) : Byte :=
  0b011#3 ++ BitVec.ofBool t ++ BitVec.ofBool h ++ BitVec.ofBool v ++ r

/-- The command byte `100mLEUx` (R95). -/
def readSectorByte (m l e u x : Bool) : Byte :=
  0b100#3 ++ BitVec.ofBool m ++ BitVec.ofBool l ++ BitVec.ofBool e ++ BitVec.ofBool u ++ BitVec.ofBool x

/-- The command byte `101mLEUa` (R95). -/
def writeSectorByte (m l e u a : Bool) : Byte :=
  0b101#3 ++ BitVec.ofBool m ++ BitVec.ofBool l ++ BitVec.ofBool e ++ BitVec.ofBool u ++ BitVec.ofBool a

/-- The command byte `1100xEUx` (R96). -/
def readAddressByte (x3 e u x0 : Bool) : Byte :=
  0b1100#4 ++ BitVec.ofBool x3 ++ BitVec.ofBool e ++ BitVec.ofBool u ++ BitVec.ofBool x0

/-- The command byte `1101IIII` (R97). -/
def forceInterruptByte (i3 i2 i1 i0 : Bool) : Byte :=
  0b1101#4 ++ BitVec.ofBool i3 ++ BitVec.ofBool i2 ++ BitVec.ofBool i1 ++ BitVec.ofBool i0

/-- The command byte `1110xxxx` (R93). -/
def reservedEByte (x : BitVec 4) : Byte := 0b1110#4 ++ x

/-- The command byte `1111xxxx` (R93). -/
def reservedFByte (x : BitVec 4) : Byte := 0b1111#4 ++ x

/-- The two bytes of the word of `IoWrite(off, d)` (R117), low byte first. -/
def writeFrame (off : BitVec 4) (d : Byte) : List Byte := [d, 0b1000#4 ++ off]

/-- The two bytes of the word of `IoRead(off)` (R117), low byte first. -/
def readFrame (off : BitVec 4) : List Byte := [0x00#8, 0b0000#4 ++ off]

/-- The frame of an instruction. -/
def encode : Instr → List Byte
  | .restore h v r => [restoreByte h v r]
  | .seek h v r => [seekByte h v r]
  | .step t h v r => [stepByte t h v r]
  | .stepIn t h v r => [stepInByte t h v r]
  | .stepOut t h v r => [stepOutByte t h v r]
  | .readSector m l e u x => [readSectorByte m l e u x]
  | .writeSector m l e u a => [writeSectorByte m l e u a]
  | .readAddress x3 e u x0 => [readAddressByte x3 e u x0]
  | .forceInterrupt i3 i2 i1 i0 => [forceInterruptByte i3 i2 i1 i0]
  | .reservedE x => [reservedEByte x]
  | .reservedF x => [reservedFByte x]
  | .wrCommand c => writeFrame 0x0#4 c
  | .rdStatus => readFrame 0x0#4
  | .wrTrack d => writeFrame 0x1#4 d
  | .rdTrack => readFrame 0x1#4
  | .wrSector d => writeFrame 0x2#4 d
  | .rdSector => readFrame 0x2#4
  | .wrData d => writeFrame 0x3#4 d
  | .rdData => readFrame 0x3#4
  | .wrUnused off d => writeFrame off d
  | .rdUnused off => readFrame off
  | .wrControl d => writeFrame 0xF#4 d
  | .rdId => readFrame 0xF#4

/-- The `nbits / 8` bytes of `w`, least significant first: the frame that spec/opcode_table.json numbers as `w`. -/
def tableFrame (nbits w : Nat) : List Byte :=
  (List.range (nbits / 8)).map fun k => BitVec.ofNat 8 (w / 256 ^ k)

/-- The instruction the decoder reads from the bits `w` of a row of spec/opcode_table.json that gives `nbits` bits. -/
def decodeTableWord (nbits w : Nat) : Option Instr :=
  match decode (tableFrame nbits w) with
  | .ok i => some i
  | .error _ => none

end Sys2Proof
end

