-- ==== Sys2Proof/Machine/State.lean ====
section
/-! DEFINITION. The state of the machine: every element of spec/10_state.md R20, and three fields of the model's own
(`busOut`, `draws`, `script`; logs 3, 5, 1). Plain data throughout. -/

namespace Sys2Proof.Machine

/-- A drive unit, numbered 0 or 1 (R5: NUM_UNITS = 2). -/
inductive Drive where
  | unit0
  | unit1
deriving DecidableEq, Repr

/-- One value per drive unit. -/
structure PerDrive (α : Type) where
  unit0 : α
  unit1 : α
deriving DecidableEq, Repr

/-- The two controller faults (spec/60_exceptions.md R220). They end a command, never the machine. -/
inductive ControllerFault where
  | recordNotFound
  | driveNotReady
deriving DecidableEq, Repr

/-- The active command class, `act` (R30); `m` is the multiple-sector flag. -/
inductive Act where
  | none
  | readSector (m : Bool)
  | writeSector (m : Bool)
  | readAddress
deriving DecidableEq, Repr

/-- Bytes by offset: offsets strictly rising, no entry that holds what an unlisted offset reads as (log 10). -/
abbrev Memory := List Host.Cell

/-- An attached disk image (R40). Its size is `secSize * secCount * trackCount`. -/
structure Image where
  secSize : Nat
  secCount : Nat
  trackCount : Nat
  bytes : Memory
  dirty : Bool
deriving DecidableEq, Repr

/-- `count` equal bytes: a disk file, "raw flat sector dump, no header", is written as a list of runs (log 10). -/
structure Run where
  count : Nat
  byte : Byte
deriving DecidableEq, Repr

/-- One step the outside world asks for (R12): a frame on the bus, or a host event. -/
inductive Input where
  /-- A bus transaction, as the bytes of its frame (spec/30_encoding.md R90, R117). -/
  | bus (frame : List Byte)
  /-- Host event `Init` (R250). -/
  | init
  /-- Host event `Attach(u, image)` (R256). -/
  | attach (u : Drive) (file : List Run)
  /-- Host event `Detach(u)` (R257). -/
  | detach (u : Drive)
deriving DecidableEq, Repr

/-- The machine (R20). -/
structure State where
  /-- Command register (R21). -/
  cr : Byte
  /-- Track register (R22). -/
  tr : Byte
  /-- Sector register (R23). -/
  sr : Byte
  /-- Data register (R24). -/
  dr : Byte
  /-- A command is executing (R25). -/
  busy : Bool
  /-- Data request (R26). -/
  drq : Bool
  /-- Interrupt-pending flag (R27). -/
  irq : Bool
  /-- The last error condition (R28). -/
  err : Option ControllerFault
  /-- The active command class (R30). -/
  act : Act
  /-- Transfer byte offset (R31). -/
  xoff : Nat
  /-- Transfer byte count (R32). -/
  xcnt : Nat
  /-- The staging buffer, `stage[0 .. MAX_SEC_SIZE-1]` (R33). -/
  stage : List Byte
  /-- The step-direction latch (R34). -/
  sdir : Dir
  /-- The selected unit (R35). -/
  sel : Option Drive
  /-- Density mode (R36). -/
  dens : Bool
  /-- `head[0]`, `head[1]` (R37). -/
  heads : PerDrive Byte
  /-- `img[0]`, `img[1]` (R40). -/
  imgs : PerDrive (Option Image)
  /-- The model's own: the byte the last transaction returned to the CPU, none after a write or a host event (log 3). -/
  busOut : Option Byte
  /-- The model's own: how many Read Address descriptors have been made; indexes the free bytes (log 5). -/
  draws : Nat
  /-- The model's own: the steps the CPU and the host still ask for, the next one first (R44; log 1). -/
  script : List Input
deriving DecidableEq, Repr

/-- Why the machine stops. No constructor: the spec gives this hardware no fault that stops it (R120; spec/93 part 1:
"No behaviour of this hardware is treated as fault or stuck"). Its two controller faults are next states. Safe (log 29). -/
inductive Fault : Type
deriving DecidableEq, Repr

/-- Why a step has no meaning. -/
inductive Refusal where
  /-- Raised by a refused arm of exec, an instruction without a meaning; no arm raises it now. Safe. -/
  | notModelled (mnemonic : String)
  /-- Raised by WR_COMMAND, RESERVED_E and RESERVED_F: a command byte 0xE0 to 0xFF written while idle, which the spec's
  model refuses (R185, R104, D5). Safe (log 8). -/
  | reservedCommand (c : Byte)
  /-- Raised by step: the frame at the head of the script is no transaction. Safe (log 26). -/
  | notATransaction (why : DecodeError)
  /-- Raised by step: `Attach` on a unit that already holds an image, outside the event's premises (R256, U14). Safe (log 9). -/
  | attachOccupied (u : Drive)
deriving DecidableEq, Repr

/-- The machine right after `Init` (R43), nothing attached, no input waiting. -/
def State.reset : State where
  cr := 0x00#8
  tr := 0x00#8
  sr := 0x00#8
  dr := 0x00#8
  busy := false
  drq := false
  irq := false
  err := none
  act := .none
  xoff := 0
  xcnt := 0
  stage := List.replicate Config.maxSecSize 0x00#8
  sdir := Config.stepDirReset
  sel := none
  dens := false
  heads := ⟨0x00#8, 0x00#8⟩
  imgs := ⟨none, none⟩
  busOut := none
  draws := 0
  script := []

end Sys2Proof.Machine
end

