-- ==== Sys2Proof/Machine/Ops.lean ====
section
/-! DEFINITION. The named operations over memory and registers: image bytes (spec/00_scope.md R9), per-drive state, the
staging buffer, and what begins and ends a command: acceptance (R121), normal termination (R223), and fault termination
(R224), which is all the exception entry this hardware has. There is no return from it (R227): the next accepted command
clears the latched fault. -/

namespace Sys2Proof.Machine

/-- What an unlisted offset of an image reads as (log 10). -/
def Memory.unlisted : Byte := 0x00#8

/-- The byte at offset `a`. -/
def Memory.read : Memory → Nat → Byte
  | [], _ => Memory.unlisted
  | (k, v) :: m, a => if k = a then v else Memory.read m a

/-- Every offset of `m` is at least `lo`, offsets rise strictly, and no entry holds the unlisted byte. -/
def Memory.wfFrom : Nat → Memory → Bool
  | _, [] => true
  | lo, (k, v) :: m => decide (lo ≤ k) && (v != Memory.unlisted) && Memory.wfFrom (k + 1) m

/-- The canonical form: equal memories are equal lists. -/
def Memory.wf (m : Memory) : Bool := Memory.wfFrom 0 m

/-- The cells of the bytes `vs` placed at `a`, those that read as unlisted left out. -/
def Memory.cells : Nat → List Byte → Memory
  | _, [] => []
  | a, v :: vs => if v = Memory.unlisted then Memory.cells (a + 1) vs else (a, v) :: Memory.cells (a + 1) vs

/-- The bytes `vs` stored at `a`, `a + 1`, … in ascending order of offset (R9, MemWrite). -/
def Memory.store (m : Memory) (a : Nat) (vs : List Byte) : Memory :=
  m.filter (fun c => decide (c.1 < a)) ++ Memory.cells a vs ++ m.filter (fun c => decide (a + vs.length ≤ c.1))

/-- The `n` bytes at `a`, `a + 1`, … in ascending order of offset (R9, MemRead). The filter only shortens the search. -/
def Memory.load (m : Memory) (a n : Nat) : List Byte :=
  let window : Memory := m.filter (fun c => decide (a ≤ c.1) && decide (c.1 < a + n))
  (List.range n).map fun i => Memory.read window (a + i)

/-- The length of a disk file in bytes. -/
def fileSize : List Run → Nat
  | [] => 0
  | r :: rs => r.count + fileSize rs

/-- The byte at offset `a` of a disk file, if it has one. -/
def fileByte : List Run → Nat → Option Byte
  | [], _ => none
  | r :: rs, a => if a < r.count then some r.byte else fileByte rs (a - r.count)

/-- A disk file as memory, its first byte at offset `a`. -/
def fileMemory : Nat → List Run → Memory
  | _, [] => []
  | a, r :: rs => Memory.cells a (List.replicate r.count r.byte) ++ fileMemory (a + r.count) rs

/-- The value of unit `u`. -/
def PerDrive.get {α : Type} (p : PerDrive α) : Drive → α
  | .unit0 => p.unit0
  | .unit1 => p.unit1

/-- `p` with unit `u`'s value replaced. -/
def PerDrive.set {α : Type} (p : PerDrive α) (u : Drive) (x : α) : PerDrive α :=
  match u with
  | .unit0 => { p with unit0 := x }
  | .unit1 => { p with unit1 := x }

/-- The size of an image, `sec_size * sec_count * track_count` (R40). -/
def Image.size (im : Image) : Nat := im.secSize * im.secCount * im.trackCount

/-- `MemWrite` (R9): the bytes stored, and the image dirty. -/
def Image.write (im : Image) (a : Nat) (vs : List Byte) : Image :=
  { im with bytes := im.bytes.store a vs, dirty := true }

/-- `img[u]` (R40). -/
def State.img (s : State) (u : Drive) : Option Image := s.imgs.get u

/-- `img[u] <- x`. -/
def State.setImg (s : State) (u : Drive) (x : Option Image) : State := { s with imgs := s.imgs.set u x }

/-- `head[u]` (R37). -/
def State.head (s : State) (u : Drive) : Byte := s.heads.get u

/-- `head[u] <- t`. -/
def State.setHead (s : State) (u : Drive) (t : Byte) : State := { s with heads := s.heads.set u t }

/-- Byte `a` of the image on unit `u`: none where no image is attached or the image is shorter. -/
def State.byteAt (s : State) (u : Drive) (a : Nat) : Option Byte :=
  match s.img u with
  | none => none
  | some im => if a < im.size then some (im.bytes.read a) else none

/-- `stage[i]` (R33). -/
def State.stageByte (s : State) (i : Nat) : Byte := s.stage.getD i (Config.stageBeyond i)

/-- `stage[i] <- v`. -/
def State.setStage (s : State) (i : Nat) (v : Byte) : State := { s with stage := s.stage.set i v }

/-- `stage[0 .. n-1]` filled with the `n` bytes `vs`; the rest of the buffer keeps its bytes. -/
def State.fillStage (s : State) (vs : List Byte) : State := { s with stage := vs ++ s.stage.drop vs.length }

/-- The byte `v` returned to the CPU by an `IoRead` (R120). -/
def State.deliver (s : State) (v : Byte) : State := { s with busOut := some v }

/-- Acceptance of the command byte `c` (R121): latched, the last error and the interrupt cleared, busy. -/
def State.accept (s : State) (c : Byte) : State := { s with cr := c, err := none, irq := false, busy := true }

/-- The sequencer idle and the flags of a transfer clear (R183, R223, R224). -/
def State.idle (s : State) : State :=
  { s with busy := false, drq := false, act := .none, xoff := 0, xcnt := 0 }

/-- `Terminate()`, the normal end of a command (R223). -/
def State.terminate (s : State) : State := { s.idle with irq := true }

/-- `raise f`, fault termination (R224): the fault latched, the command ended, nothing saved, control nowhere else. What the
rule wrote before stays written; no line after it runs. -/
def State.raise (s : State) (f : ControllerFault) : State := { s.idle with err := some f, irq := true }

/-- The transfer started (R163, R164, R180): `n` bytes to move, none moved yet, data requested. -/
def State.arm (s : State) (a : Act) (n : Nat) : State :=
  { s with xoff := 0, xcnt := n, act := a, busy := true, drq := true }

/-- A command write (R121) of a class that is not reserved and not Force Interrupt: while busy it is rejected and nothing
changes; otherwise it is accepted and `body`, the rule of its class, runs. -/
def commandWrite (c : Byte) (body : State → State) (s : State) : Host.Outcome State Fault Refusal :=
  if s.busy then .next s else .next (body (s.accept c))

/-- A command write of a reserved class (R121, R185): while busy it is rejected and nothing changes; while idle the spec's
model refuses it (D5, log 8). -/
def reservedWrite (c : Byte) (s : State) : Host.Outcome State Fault Refusal :=
  if s.busy then .next s else .refused (.reservedCommand c)

end Sys2Proof.Machine
end

