-- ==== Sys2Proof/Machine/Operands.lean ====
section
/-! DEFINITION. The operand forms: the selected image, the head's bound, the sector address and its translation
(spec/20_memory.md R65 to R68), the control byte (spec/30_encoding.md R110), the Read Address descriptor (R181). No command
carries an immediate; every operand is read from a register (R98). -/

namespace Sys2Proof.Machine

/-- The image on the selected unit: none when no unit is selected or the unit is empty (R65, D17). -/
def State.selImage (s : State) : Option Image :=
  match s.sel with
  | none => none
  | some u => s.img u

/-- `limit(u)`, how many track positions the head of `u` can take (R141). -/
def State.limit (s : State) (u : Drive) : Nat :=
  match s.img u with
  | some im => im.trackCount
  | none => Config.defaultTrackCount

/-- The geometry test of R65: `t < track_count` and `1 <= n <= sec_count`. -/
def Image.hasSector (im : Image) (t n : Nat) : Bool :=
  decide (t < im.trackCount) && decide (1 ≤ n) && decide (n ≤ im.secCount)

/-- `lin`, the offset of the first byte of sector `(t, n)` (R66), on naturals. -/
def Image.lin (im : Image) (t n : Nat) : Nat := (t * im.secCount + (n - 1)) * im.secSize

/-- The check of R65 on the address `(u, t, n)`: the image present first, then the geometry. -/
def State.checkSector (s : State) (u : Option Drive) (t n : Nat) : Except ControllerFault (Drive × Image) :=
  match u with
  | none => .error .driveNotReady
  | some u =>
    match s.img u with
    | none => .error .driveNotReady
    | some im => if im.hasSector t n then .ok (u, im) else .error .recordNotFound

/-- `read_sector(u, t, n)` (R67): the bytes of the sector in ascending order; no state changes. -/
def State.readSector (s : State) (u : Option Drive) (t n : Nat) : Except ControllerFault (List Byte) :=
  match s.checkSector u t n with
  | .error f => .error f
  | .ok (_, im) => .ok (im.bytes.load (im.lin t n) im.secSize)

/-- `write_sector(u, t, n, v)` (R68): the bytes stored and the image dirty, or a failure and nothing changed. -/
def State.writeSector (s : State) (u : Option Drive) (t n : Nat) (v : List Byte) : Except ControllerFault State :=
  match s.checkSector u t n with
  | .error f => .error f
  | .ok (d, im) => .ok (s.setImg d (some (im.write (im.lin t n) v)))

/-- CTRL_DECODE, the selection: one-hot in bits 1 and 2; neither or both selects nothing (R110, D24; UNVERIFIED, log 13). -/
def ctrlSelect (d : Byte) : Option Drive :=
  match d.getLsbD 2, d.getLsbD 1 with
  | false, true => some .unit0
  | true, false => some .unit1
  | false, false => none
  | true, true => none

/-- CTRL_DECODE, the density bit (R110). -/
def ctrlDensity (d : Byte) : Bool := d.getLsbD 0

/-- The length code `N` with `sec_size = 128 * 2^N`, where there is one (R181). -/
def lengthCode (secSize : Nat) : Option Byte :=
  match secSize with
  | 128 => some 0x00#8
  | 256 => some 0x01#8
  | 512 => some 0x02#8
  | 1024 => some 0x03#8
  | _ => none

/-- The Read Address descriptor of unit `u` holding `im` (R181): track, side, sector, length code, and two CRC bytes of any
value, drawn afresh for each command (D19; logs 5, 6, 17). -/
def State.descriptor (s : State) (u : Drive) (im : Image) : List Byte :=
  [s.head u, 0x00#8, s.sr, (lengthCode im.secSize).getD (Config.raLengthCode s.draws),
    Config.raCrc1 s.draws, Config.raCrc2 s.draws]

end Sys2Proof.Machine
end

