-- ==== Sys2Proof/Machine/Flags.lean ====
section
/-! DEFINITION. The status byte, computed at each read and never stored (spec/45_status.md R210 to R216), and the two output
levels (spec/60_exceptions.md R228, R229). -/

namespace Sys2Proof.Machine

/-- Status bit 7, not-ready: no unit selected, or no image on it (R211). -/
def State.notReady (s : State) : Bool := s.selImage.isNone

/-- Status bit 4, record-not-found (R215). -/
def State.recordNotFound (s : State) : Bool := s.err == some .recordNotFound

/-- Status bit 2, track-0: a unit is selected and its head is at 0 (R213). -/
def State.trackZero (s : State) : Bool :=
  match s.sel with
  | none => false
  | some u => s.head u == 0x00#8

/-- The status byte (R216), bit 7 first; bits 6, 5, 3 and 1 are constant 0 (R212), and no bit shows `drq` (R214). -/
def State.status (s : State) : Byte :=
  BitVec.ofBool s.notReady ++ 0b00#2 ++ BitVec.ofBool s.recordNotFound ++ 0b0#1 ++ BitVec.ofBool s.trackZero ++ 0b0#1 ++
    BitVec.ofBool s.busy

/-- The output level INTRQ (R228). -/
def State.intrq (s : State) : Bool := s.irq

/-- The output level DRQ (R229). -/
def State.drqLevel (s : State) : Bool := s.drq

end Sys2Proof.Machine
end

