-- ==== Sys2Proof/Machine/AddressAndInterrupt.lean ====
section
/-! DEFINITION. Read Address, Force Interrupt and the reserved command bytes (spec/43_read_address_force_interrupt.md). -/

namespace Sys2Proof.Machine

/-- Read Address (R180): the descriptor into the staging buffer, `RA_LEN` bytes to move; TR and the validity of the sector
address play no part. The draw counter moves on, so that the next descriptor's CRC bytes are drawn afresh. -/
def readAddress (s : State) : State :=
  match s.sel with
  | none => s.raise .driveNotReady
  | some u =>
    match s.img u with
    | none => s.raise .driveNotReady
    | some im => { (s.fillStage (s.descriptor u im)).arm .readAddress Config.raLen with draws := s.draws + 1 }

/-- Force Interrupt (R183): the command in progress aborted, every register left as it is, `irq` a copy of `I3`. -/
def forceInterrupt (i3 : Bool) (s : State) : State := { s.idle with irq := i3 }

/-- READ_ADDRESS, `1100xEUx` (R180). -/
def execReadAddress (x3 e u x0 : Bool) (s : State) : Host.Outcome State Fault Refusal :=
  commandWrite (readAddressByte x3 e u x0) readAddress s

/-- FORCE_INTERRUPT, `1101IIII` (R183): accepted in every state, busy or not. -/
def execForceInterrupt (i3 i2 i1 i0 : Bool) (s : State) : Host.Outcome State Fault Refusal :=
  .next (forceInterrupt i3 (s.accept (forceInterruptByte i3 i2 i1 i0)))

/-- RESERVED_E, `1110xxxx` (R185). -/
def execReservedE (x : BitVec 4) (s : State) : Host.Outcome State Fault Refusal := reservedWrite (reservedEByte x) s

/-- RESERVED_F, `1111xxxx` (R185). -/
def execReservedF (x : BitVec 4) (s : State) : Host.Outcome State Fault Refusal := reservedWrite (reservedFByte x) s

end Sys2Proof.Machine
end

