-- ==== Sys2Proof/Machine/Positioning.lean ====
section
/-! DEFINITION. The positioning commands (spec/41_positioning_commands.md). They end inside the write that issues them,
cannot fault, and need no image (R140); `h`, `V` and `r1 r0` have no effect (R148) beyond being latched into `CR`. -/

namespace Sys2Proof.Machine

/-- RESTORE (R142). -/
def restore (s : State) : State :=
  let s1 : State := { s with tr := 0x00#8, sdir := .outward }
  let s2 : State := match s1.sel with
    | none => s1
    | some u => s1.setHead u 0x00#8
  s2.terminate

/-- The direction latch after a Seek from `tr` to `dest`: unchanged where they are equal (R143). -/
def seekDir (dest tr : Byte) (d : Dir) : Dir :=
  if tr.toNat < dest.toNat then .inward else if dest.toNat < tr.toNat then .outward else d

/-- SEEK (R143): the head goes to the destination or, if that is beyond the last track, to the last track; TR takes the full
destination. -/
def seek (s : State) : State :=
  let s1 : State := { s with sdir := seekDir s.dr s.tr s.sdir }
  let s2 : State := match s1.sel with
    | none => s1
    | some u => s1.setHead u (BitVec.ofNat 8 (min s.dr.toNat (s1.limit u - 1)))
  State.terminate { s2 with tr := s.dr }

/-- The update of TR by the `T` flag, modulo 256 (R144, R77). -/
def stepTrack (d : Dir) (t : Bool) (tr : Byte) : Byte :=
  match t, d with
  | false, _ => tr
  | true, .inward => tr + 1
  | true, .outward => tr - 1

/-- `StepOnce(d, T)` (R144): TR by the `T` flag, then the head, then the track-0 rule for a step out at track 0. -/
def stepOnce (d : Dir) (t : Bool) (s : State) : State :=
  let s1 : State := { s with tr := stepTrack d t s.tr }
  let s2 : State := match s1.sel with
    | none => s1
    | some u => match d with
      | .outward => if s1.head u = 0x00#8 then { s1 with tr := 0x00#8 } else s1.setHead u (s1.head u - 1)
      | .inward => s1.setHead u (BitVec.ofNat 8 (min ((s1.head u).toNat + 1) (s1.limit u - 1)))
  s2.terminate

/-- `sdir <- d`, then `StepOnce(d, T)` (R146, R147). -/
def stepToward (d : Dir) (t : Bool) (s : State) : State := stepOnce d t { s with sdir := d }

/-- RESTORE, `0000hVrr` (R142). -/
def execRestore (h v : Bool) (r : BitVec 2) (s : State) : Host.Outcome State Fault Refusal :=
  commandWrite (restoreByte h v r) restore s

/-- SEEK, `0001hVrr` (R143). -/
def execSeek (h v : Bool) (r : BitVec 2) (s : State) : Host.Outcome State Fault Refusal :=
  commandWrite (seekByte h v r) seek s

/-- STEP, `001ThVrr` (R145): the direction is the latch's, read and not written. -/
def execStep (t h v : Bool) (r : BitVec 2) (s : State) : Host.Outcome State Fault Refusal :=
  commandWrite (stepByte t h v r) (fun s1 => stepOnce s1.sdir t s1) s

/-- STEP_IN, `010ThVrr` (R146). -/
def execStepIn (t h v : Bool) (r : BitVec 2) (s : State) : Host.Outcome State Fault Refusal :=
  commandWrite (stepInByte t h v r) (stepToward .inward t) s

/-- STEP_OUT, `011ThVrr` (R147). -/
def execStepOut (t h v : Bool) (r : BitVec 2) (s : State) : Host.Outcome State Fault Refusal :=
  commandWrite (stepOutByte t h v r) (stepToward .outward t) s

end Sys2Proof.Machine
end

