-- ==== Sys2Proof/Machine/SectorCommands.lean ====
section
/-! DEFINITION. Read Sector and Write Sector (spec/42_sector_commands.md): the checks and the arming. The flags `L`, `E`,
`U`, `a0` have no effect (R95). -/

namespace Sys2Proof.Machine

/-- `ArmSectorRead(m)` (R163): the sector `(sel, TR, SR)` into the staging buffer, or the fault of `read_sector`. -/
def armSectorRead (m : Bool) (s : State) : State :=
  match s.readSector s.sel s.tr.toNat s.sr.toNat with
  | .error f => s.raise f
  | .ok bytes => (s.fillStage bytes).arm (.readSector m) bytes.length

/-- `ArmSectorWrite(m)` (R164): the checks of R65 at once, before any byte is requested (D18). -/
def armSectorWrite (m : Bool) (s : State) : State :=
  match s.checkSector s.sel s.tr.toNat s.sr.toNat with
  | .error f => s.raise f
  | .ok (_, im) => s.arm (.writeSector m) im.secSize

/-- READ_SECTOR, `100mLEUx` (R160). -/
def execReadSector (m l e u x : Bool) (s : State) : Host.Outcome State Fault Refusal :=
  commandWrite (readSectorByte m l e u x) (armSectorRead m) s

/-- WRITE_SECTOR, `101mLEUa` (R161). -/
def execWriteSector (m l e u a : Bool) (s : State) : Host.Outcome State Fault Refusal :=
  commandWrite (writeSectorByte m l e u a) (armSectorWrite m) s

end Sys2Proof.Machine
end

