-- ==== Sys2Proof/Machine/CommandWrite.lean ====
section
/-! DEFINITION. WR_COMMAND (spec/40_register_access.md R121): the byte written to offset 0x0 is decoded by the class table of
R93 at the moment of the write, and the rule of its class runs with its flags. -/

namespace Sys2Proof.Machine

/-- WR_COMMAND (R121). -/
def execWrCommand (c : Byte) (s : State) : Host.Outcome State Fault Refusal :=
  match commandClass c with
  | .restore => commandWrite c restore s
  | .seek => commandWrite c seek s
  | .step => commandWrite c (fun s1 => stepOnce s1.sdir (c.getLsbD 4) s1) s
  | .stepIn => commandWrite c (stepToward .inward (c.getLsbD 4)) s
  | .stepOut => commandWrite c (stepToward .outward (c.getLsbD 4)) s
  | .readSector => commandWrite c (armSectorRead (c.getLsbD 4)) s
  | .writeSector => commandWrite c (armSectorWrite (c.getLsbD 4)) s
  | .readAddress => commandWrite c readAddress s
  | .forceInterrupt => .next (forceInterrupt (c.getLsbD 3) (s.accept c))
  | .reservedE => reservedWrite c s
  | .reservedF => reservedWrite c s

end Sys2Proof.Machine
end

