-- ==== Sys2Proof/Machine/DataTransfer.lean ====
section
/-! DEFINITION. The data-transfer engine (spec/44_data_transfer.md): the two data-register accesses, completion, the commit
of a written sector, and the multiple-sector advance. -/

namespace Sys2Proof.Machine

/-- The transfer moves bytes to the CPU (R30). -/
def Act.toCpu : Act → Bool
  | .none => false
  | .readSector _ => true
  | .writeSector _ => false
  | .readAddress => true

/-- The transfer takes bytes from the CPU (R30). -/
def Act.fromCpu : Act → Bool
  | .none => false
  | .readSector _ => false
  | .writeSector _ => true
  | .readAddress => false

/-- A data-register read moves a byte: data requested, read direction (R190). -/
def State.readPending (s : State) : Bool := s.drq && s.act.toCpu

/-- A data-register write moves a byte: data requested, write direction (R191). -/
def State.writePending (s : State) : Bool := s.drq && s.act.fromCpu

/-- The advance of the sector address (R196) over tracks of `secCount` sectors: the head does not move. -/
def State.advance (s : State) (secCount : Nat) : State :=
  if secCount ≤ s.sr.toNat then { s with sr := 0x01#8, tr := s.tr + 1 } else { s with sr := s.sr + 1 }

/-- `AdvanceAndRearm` (R196, R197), the re-arm being `arm`: with the image gone a fault before the advance, else the advance
and the full check of a fresh command. -/
def advanceAndRearm (rearm : State → State) (s : State) : State :=
  match s.selImage with
  | none => s.raise .driveNotReady
  | some im => rearm (s.advance im.secCount)

/-- `CompleteRead()` (R192). -/
def completeRead (s : State) : State :=
  match s.act with
  | .readSector true => advanceAndRearm (armSectorRead true) s
  | .readSector false => s.terminate
  | .writeSector _ => s.terminate
  | .readAddress => s.terminate
  | .none => s.terminate

/-- After a commit (R194): the advance of a multiple-sector write, or the end of the command. -/
def afterCommit (s : State) : State :=
  match s.act with
  | .writeSector true => advanceAndRearm (armSectorWrite true) s
  | .writeSector false => s.terminate
  | .readSector _ => s.terminate
  | .readAddress => s.terminate
  | .none => s.terminate

/-- `CompleteWrite()`, the commit (R194): to the unit selected now, image present first, then the sector size, then the
address. -/
def completeWrite (s : State) : State :=
  match s.selImage with
  | none => s.raise .driveNotReady
  | some im =>
    if im.secSize = s.xcnt then
      match s.writeSector s.sel s.tr.toNat s.sr.toNat (s.stage.take s.xcnt) with
      | .error f => s.raise f
      | .ok s1 => afterCommit s1
    else s.raise .recordNotFound

/-- One byte moved to the CPU (R190): latched into DR, the offset advanced, the transfer completed if it was the last. -/
def moveByteOut (s : State) : State :=
  let s1 : State := { s with dr := s.stageByte s.xoff, xoff := s.xoff + 1 }
  if s1.xoff = s1.xcnt then completeRead s1 else s1

/-- One byte taken from the CPU (R191), DR holding it: staged, the offset advanced, the sector committed if it was the last. -/
def moveByteIn (s : State) : State :=
  let s1 : State := { s.setStage s.xoff s.dr with xoff := s.xoff + 1 }
  if s1.xoff = s1.xcnt then completeWrite s1 else s1

/-- RD_DATA (R190). The byte is returned also where the completion faults. -/
def execRdData (s : State) : Host.Outcome State Fault Refusal :=
  if s.readPending then .next ((moveByteOut s).deliver (s.stageByte s.xoff)) else .next (s.deliver s.dr)

/-- WR_DATA (R191): DR takes the byte in every state. -/
def execWrData (d : Byte) (s : State) : Host.Outcome State Fault Refusal :=
  if s.writePending then .next (moveByteIn { s with dr := d }) else .next { s with dr := d }

end Sys2Proof.Machine
end

