-- ==== Sys2Proof/Machine/RegisterAccess.lean ====
section
/-! DEFINITION. The register accesses that move no transfer byte (spec/40_register_access.md, spec/45_status.md R216). -/

namespace Sys2Proof.Machine

/-- RD_STATUS (R216): the status byte; the read clears `irq` and nothing else. -/
def execRdStatus (s : State) : Host.Outcome State Fault Refusal := .next (State.deliver { s with irq := false } s.status)

/-- RD_TRACK (R123). -/
def execRdTrack (s : State) : Host.Outcome State Fault Refusal := .next (s.deliver s.tr)

/-- WR_TRACK (R124): ignored while busy. -/
def execWrTrack (d : Byte) (s : State) : Host.Outcome State Fault Refusal :=
  if s.busy then .next s else .next { s with tr := d }

/-- RD_SECTOR (R125). -/
def execRdSector (s : State) : Host.Outcome State Fault Refusal := .next (s.deliver s.sr)

/-- WR_SECTOR (R126): ignored while busy. -/
def execWrSector (d : Byte) (s : State) : Host.Outcome State Fault Refusal :=
  if s.busy then .next s else .next { s with sr := d }

/-- RD_UNUSED (R129): one behaviour for the eleven offsets. -/
def execRdUnused (_off : BitVec 4) (s : State) : Host.Outcome State Fault Refusal := .next (s.deliver Config.unusedRead)

/-- WR_UNUSED (R130): the byte is stored nowhere. -/
def execWrUnused (_off : BitVec 4) (_d : Byte) (s : State) : Host.Outcome State Fault Refusal := .next s

/-- WR_CONTROL (R131): accepted in every state. -/
def execWrControl (d : Byte) (s : State) : Host.Outcome State Fault Refusal :=
  .next { s with sel := ctrlSelect d, dens := ctrlDensity d }

/-- RD_ID (R132). -/
def execRdId (s : State) : Host.Outcome State Fault Refusal := .next (s.deliver Config.cardId)

end Sys2Proof.Machine
end

