-- ==== Sys2Proof/Machine/Dispatch.lean ====
section
/-! DEFINITION. What each instruction does: one arm per constructor of Instr, each one call of its meaning. -/

namespace Sys2Proof.Machine

def exec (i : Instr) (s : State) : Host.Outcome State Fault Refusal :=
  match i with
  | .restore h v r => Sys2Proof.Machine.execRestore h v r s
  | .seek h v r => Sys2Proof.Machine.execSeek h v r s
  | .step t h v r => Sys2Proof.Machine.execStep t h v r s
  | .stepIn t h v r => Sys2Proof.Machine.execStepIn t h v r s
  | .stepOut t h v r => Sys2Proof.Machine.execStepOut t h v r s
  | .readSector m l e u x => Sys2Proof.Machine.execReadSector m l e u x s
  | .writeSector m l e u a => Sys2Proof.Machine.execWriteSector m l e u a s
  | .readAddress x3 e u x0 => Sys2Proof.Machine.execReadAddress x3 e u x0 s
  | .forceInterrupt i3 i2 i1 i0 => Sys2Proof.Machine.execForceInterrupt i3 i2 i1 i0 s
  | .reservedE x => Sys2Proof.Machine.execReservedE x s
  | .reservedF x => Sys2Proof.Machine.execReservedF x s
  | .wrCommand c => Sys2Proof.Machine.execWrCommand c s
  | .rdStatus => Sys2Proof.Machine.execRdStatus s
  | .wrTrack d => Sys2Proof.Machine.execWrTrack d s
  | .rdTrack => Sys2Proof.Machine.execRdTrack s
  | .wrSector d => Sys2Proof.Machine.execWrSector d s
  | .rdSector => Sys2Proof.Machine.execRdSector s
  | .wrData d => Sys2Proof.Machine.execWrData d s
  | .rdData => Sys2Proof.Machine.execRdData s
  | .wrUnused off d => Sys2Proof.Machine.execWrUnused off d s
  | .rdUnused off => Sys2Proof.Machine.execRdUnused off s
  | .wrControl d => Sys2Proof.Machine.execWrControl d s
  | .rdId => Sys2Proof.Machine.execRdId s

end Sys2Proof.Machine
end

