-- ==== Sys2Proof/Machine/HostEvents.lean ====
section
/-! DEFINITION. The host events (spec/70_reset_and_hazards.md R250, R256, R257), steps like the bus transactions (R12). -/

namespace Sys2Proof.Machine

/-- `Init` (R250): every element at its reset value, both units emptied (D28). The steps still asked for stay, and the draw
counter goes on, so that no later draw repeats an earlier one (log 22). -/
def hostInit (s : State) : Host.Outcome State Fault Refusal :=
  .next { State.reset with script := s.script, draws := s.draws }

/-- The entry of GEOMETRY_TABLE for a file of `n` bytes (R256). -/
def geometryFor (n : Nat) : Option Geometry := Config.geometryTable.find? (fun g => g.size == n)

/-- The image record of a file attached with geometry `g`: clean, its bytes the file's (R256). -/
def Image.ofFile (g : Geometry) (file : List Run) : Image where
  secSize := g.secSize
  secCount := g.secCount
  trackCount := g.trackCount
  bytes := fileMemory 0 file
  dirty := false

/-- The head position clamped below `n` tracks (R256). -/
def clampHead (h : Byte) (n : Nat) : Byte := BitVec.ofNat 8 (min h.toNat (n - 1))

/-- `Attach(u, image)` (R256): on an occupied unit the event has no meaning (U14, log 9); with a size that is in no entry of
GEOMETRY_TABLE it is no event and nothing changes (U15). -/
def hostAttach (u : Drive) (file : List Run) (s : State) : Host.Outcome State Fault Refusal :=
  match s.img u with
  | some _ => .refused (.attachOccupied u)
  | none =>
    match geometryFor (fileSize file) with
    | none => .next s
    | some g => .next ((s.setImg u (some (Image.ofFile g file))).setHead u (clampHead (s.head u) g.trackCount))

/-- `Detach(u)` (R257): safe on an empty unit; nothing but `img[u]` changes. -/
def hostDetach (u : Drive) (s : State) : Host.Outcome State Fault Refusal := .next (s.setImg u none)

end Sys2Proof.Machine
end

