-- ==== Sys2Proof/Machine/Fetch.lean ====
section
/-! DEFINITION. Taking the next input from the script and running it (spec/00_scope.md R12, spec/20_memory.md R73). -/

namespace Sys2Proof.Machine

/-- The next input taken from the script, nothing returned to the CPU yet (logs 1, 3). -/
def State.begin (s : State) (rest : List Input) : State := { s with script := rest, busOut := none }

/-- One input, run in the state that has taken it from the script. -/
def runInput (inp : Input) (s : State) : Host.Outcome State Fault Refusal :=
  match inp with
  | .bus frame =>
    match decode frame with
    | .ok i => exec i s
    | .error e => .refused (.notATransaction e)
  | .init => hostInit s
  | .attach u file => hostAttach u file s
  | .detach u => hostDetach u s

/-- The next thing the CPU or the host asks for, run to its end. With nothing asked for the controller stays as it is, for
it "never moves on its own" (R198; log 25). -/
def runNext (s : State) : Host.Outcome State Fault Refusal :=
  match s.script with
  | [] => .next s
  | inp :: rest => runInput inp (s.begin rest)

end Sys2Proof.Machine
end

