-- ==== Sys2Proof/Machine/Step.lean ====
section
/-! DEFINITION. One step of the machine: one bus transaction or one host event (spec/00_scope.md R12). -/

namespace Sys2Proof.Machine

def step (s : State) : Host.Outcome State Fault Refusal := runNext s

/-- `s` with the instruction of the bits `w` as its next input (log 1): the load of a program, one frame long. -/
def State.withFetchWord (s : State) (nbits w : Nat) : State :=
  { s with script := .bus (tableFrame nbits w) :: s.script }

end Sys2Proof.Machine
end

