-- ==== Sys2Proof/Safety.lean ====
section
/-! DEFINITION. What holds of every state a run reaches (spec/10_state.md R41), and the terms claims use. -/

namespace Sys2Proof.Machine

/-- A state that claims about an ended run ask for: `busy = 0` (R271). -/
def State.quiescent (s : State) : Bool := !s.busy

/-- The geometry of `im` is that of the entry `g` (R40). -/
def Image.hasGeometry (im : Image) (g : Geometry) : Bool :=
  decide (im.secSize = g.secSize) && decide (im.secCount = g.secCount) && decide (im.trackCount = g.trackCount)

/-- An image record as R40 has it: a geometry of GEOMETRY_TABLE, its bytes canonical and within its size. -/
def Image.ok (im : Image) : Bool :=
  Config.geometryTable.any im.hasGeometry && im.bytes.wf && im.bytes.all (fun c => decide (c.1 < im.size))

/-- R41 items 1 to 3: busy, data request and the sequencer agree, and the transfer offset is within its count. -/
abbrev State.SequencerOk (s : State) : Prop :=
  (s.busy = true ↔ s.act ≠ .none) ∧ s.drq = s.busy ∧
    (s.busy = true → s.xoff < s.xcnt ∧ s.xcnt ≤ Config.maxSecSize) ∧
    (s.busy = false → s.xoff = 0 ∧ s.xcnt = 0)

/-- The count of a transfer is RA_LEN, or the sector size of an entry of GEOMETRY_TABLE (R32). -/
def State.countOk (s : State) : Bool :=
  match s.act with
  | .none => true
  | .readAddress => decide (s.xcnt = Config.raLen)
  | .readSector _ => Config.geometryTable.any (fun g => decide (g.secSize = s.xcnt))
  | .writeSector _ => Config.geometryTable.any (fun g => decide (g.secSize = s.xcnt))

/-- While a command executes no error is latched and no interrupt is pending: every command start clears both, and what sets
them ends the command (R216 corner case 1, R228). -/
abbrev State.OutcomeOk (s : State) : Prop := s.busy = true → s.err = none ∧ s.irq = false

/-- R41 item 5, for one unit: the head is on a track. -/
abbrev State.HeadOk (s : State) (u : Drive) : Prop := (s.head u).toNat < s.limit u

/-- R40, for one unit. -/
def State.imageOk (s : State) (u : Drive) : Bool :=
  match s.img u with
  | none => true
  | some im => im.ok

/-- The invariant of R41 (item 4 is the type of `sel`; item 7 speaks of a moment past), with the staging buffer's length
(R33), the count (R32) and the outcome flags. -/
abbrev State.Inv (s : State) : Prop :=
  s.SequencerOk ∧ s.countOk = true ∧ s.OutcomeOk ∧ s.stage.length = Config.maxSecSize ∧
    (s.HeadOk .unit0 ∧ s.HeadOk .unit1) ∧ s.imageOk .unit0 = true ∧ s.imageOk .unit1 = true

/-- The frame carries the command byte `c`: alone, or as the value of a write to offset 0x0 (R92; log 2). -/
abbrev CommandFrame (f : List Byte) (c : Byte) : Prop := f = [c] ∨ f = writeFrame 0x0#4 c

/-- Every byte of both images reads as before. -/
abbrev State.SameBytes (s t : State) : Prop := ∀ u a, t.byteAt u a = s.byteAt u a

/-- The address a multiple-sector transfer advances to, over tracks of `secCount` sectors (R196). -/
abbrev NextSector (secCount : Nat) (tr sr tr' sr' : Byte) : Prop :=
  if secCount ≤ sr.toNat then tr' = tr + 1 ∧ sr' = 0x01#8 else tr' = tr ∧ sr' = sr + 1

/-- R65, item 2: the address is one of the image's. -/
abbrev Image.Valid (im : Image) (tr sr : Byte) : Prop :=
  tr.toNat < im.trackCount ∧ 1 ≤ sr.toNat ∧ sr.toNat ≤ im.secCount

/-- The byte `i` of a sector that ends with the byte `d` now written at `stage[xoff]` (R191, R194). -/
def State.stagedWith (s : State) (d : Byte) (i : Nat) : Byte := if i = s.xoff then d else s.stageByte i

/-- `n` reads of the data register in a row: the bytes returned, in order, and the state after. -/
def dataReads : Nat → State → Option (List Byte × State)
  | 0, s => some ([], s)
  | n + 1, s =>
    match exec .rdData s with
    | .next t => (dataReads n t).map fun p => (t.busOut.toList ++ p.1, p.2)
    | .fault _ => none
    | .refused _ => none

/-- The bytes `ds` written to the data register in order, and the state after. -/
def dataWrites : List Byte → State → Option State
  | [], s => some s
  | d :: ds, s =>
    match exec (.wrData d) s with
    | .next t => dataWrites ds t
    | .fault _ => none
    | .refused _ => none

end Sys2Proof.Machine
end

