-- ==== Sys2Proof/Certificates/Slice0/Obligations.lean ====
section
/-! DEFINITION. The statements for the provers. Each docstring names the rules of spec/ it comes from and the spec's own
decisions (`D<n>` of spec/92_eei_decisions.md) it rests on. -/

open Sys2Proof Sys2Proof.Machine

/-! ## Encoding (spec/30_encoding.md) -/

/-- Decoding the frame of a well-formed instruction gives it back, every operand and flag bit included (R91 to R97, R117). -/
def Obligations.DecodeOfEncodeIsIdentity : Prop :=
  ∀ i : Instr, i.WellFormed → decode (encode i) = .ok i

/-- The other direction: a frame that decodes is the frame of what it decodes to, so each instruction has one frame, and it
decodes to nothing ill-formed (R91, R93, R117). -/
def Obligations.DecodedFrameIsTheEncoding : Prop :=
  ∀ (f : List Byte) (i : Instr), decode f = .ok i → encode i = f ∧ i.WellFormed

/-- The match and mask pairs of R93: a byte's class is a row's class exactly where the byte under the row's mask is the row's
match. The values are the spec's decision D2 (log 12). -/
def Obligations.CommandClassFollowsMatchAndMask : Prop :=
  ∀ c : Byte,
    (c &&& 0xF0#8 = 0x00#8 ↔ commandClass c = .restore) ∧ (c &&& 0xF0#8 = 0x10#8 ↔ commandClass c = .seek) ∧
    (c &&& 0xE0#8 = 0x20#8 ↔ commandClass c = .step) ∧ (c &&& 0xE0#8 = 0x40#8 ↔ commandClass c = .stepIn) ∧
    (c &&& 0xE0#8 = 0x60#8 ↔ commandClass c = .stepOut) ∧ (c &&& 0xE0#8 = 0x80#8 ↔ commandClass c = .readSector) ∧
    (c &&& 0xE0#8 = 0xA0#8 ↔ commandClass c = .writeSector) ∧ (c &&& 0xF0#8 = 0xC0#8 ↔ commandClass c = .readAddress) ∧
    (c &&& 0xF0#8 = 0xD0#8 ↔ commandClass c = .forceInterrupt) ∧ (c &&& 0xF0#8 = 0xE0#8 ↔ commandClass c = .reservedE) ∧
    (c &&& 0xF0#8 = 0xF0#8 ↔ commandClass c = .reservedF)

/-- R91: the operation of each of the 32 combinations of form and offset. The frames are the words of the spec's notation R117. -/
def Obligations.TransactionsDecodeByFormAndOffset : Prop :=
  ∀ (off : BitVec 4) (d : Byte),
    decode (writeFrame off d) = .ok
      (if off = 0x0#4 then .wrCommand d else if off = 0x1#4 then .wrTrack d else if off = 0x2#4 then .wrSector d
        else if off = 0x3#4 then .wrData d else if off = 0xF#4 then .wrControl d else .wrUnused off d) ∧
    decode (readFrame off) = .ok
      (if off = 0x0#4 then .rdStatus else if off = 0x1#4 then .rdTrack else if off = 0x2#4 then .rdSector
        else if off = 0x3#4 then .rdData else if off = 0xF#4 then .rdId else .rdUnused off)

/-- A few words as the spec writes them (R116, R117, spec/95_test_vectors.md V42): a sanity statement. -/
def Obligations.SpecWordsDecodeAsWritten : Prop :=
  decodeTableWord 16 0x8F02 = some (.wrControl 0x02#8) ∧ decodeTableWord 16 0x8080 = some (.wrCommand 0x80#8) ∧
  decodeTableWord 16 0x83FF = some (.wrData 0xFF#8) ∧ decodeTableWord 16 0x0300 = some .rdData ∧
  decodeTableWord 16 0x0F00 = some .rdId ∧ decodeTableWord 8 0x50 = some (.stepIn true false false 0#2) ∧
  decodeTableWord 8 0x90 = some (.readSector true false false false false) ∧
  decodeTableWord 8 0xD8 = some (.forceInterrupt true false false false)

/-! ## Steps (spec/00_scope.md R12, spec/20_memory.md R73) -/

/-- A step takes the next frame from the script and runs the instruction it decodes to; the byte returned to the CPU by the
transaction before is gone by then (logs 1, 3). -/
def Obligations.StepRunsTheDecodedInstruction : Prop :=
  ∀ (s : State) (f : List Byte) (rest : List Input) (i : Instr),
    s.script = .bus f :: rest → decode f = .ok i → i.WellFormed →
    step s = exec i { s with script := rest, busOut := none }

/-- With nothing asked for, the controller stays as it is: it never moves on its own (R12, R198; log 25). -/
def Obligations.StepWithoutInputChangesNothing : Prop :=
  ∀ s : State, s.script = [] → step s = .next s

/-- A command byte written to offset 0x0 does what the instruction it decodes to does, in every state (R92, R93, R121). -/
def Obligations.CommandWriteRunsTheDecodedCommand : Prop :=
  ∀ (c : Byte) (s : State), exec (.wrCommand c) s = exec (decodeCommand c) s

/-! ## Register accesses (spec/40_register_access.md, spec/45_status.md) -/

/-- R123, R125, R129, R132: the four reads that only return a byte, in every state; nothing else changes. -/
def Obligations.PlainReadsReturnTheirByte : Prop :=
  ∀ (s : State) (off : BitVec 4), (Instr.rdUnused off).WellFormed →
    (∃ z, exec .rdTrack s = .next z ∧ z = { s with busOut := some s.tr } ∧ s.SameBytes z) ∧
    (∃ z, exec .rdSector s = .next z ∧ z = { s with busOut := some s.sr } ∧ s.SameBytes z) ∧
    (∃ z, exec (.rdUnused off) s = .next z ∧ z = { s with busOut := some 0xFF#8 } ∧ s.SameBytes z) ∧
    (∃ z, exec .rdId s = .next z ∧ z = { s with busOut := some 0x10#8 } ∧ s.SameBytes z)

/-- R124, R126, R261: the track and sector registers take any byte while idle, and none while busy. -/
def Obligations.TrackAndSectorWritesTakeEffectWhenIdle : Prop :=
  ∀ (s : State) (d : Byte),
    (∃ z, exec (.wrTrack d) s = .next z ∧ z = { s with tr := if s.busy then s.tr else d } ∧ s.SameBytes z) ∧
    (∃ z, exec (.wrSector d) s = .next z ∧ z = { s with sr := if s.busy then s.sr else d } ∧ s.SameBytes z)

/-- R130: a write to an unused offset stores nothing. -/
def Obligations.UnusedWriteChangesNothing : Prop :=
  ∀ (s : State) (off : BitVec 4) (d : Byte), (Instr.wrUnused off d).WellFormed →
    ∃ z, exec (.wrUnused off d) s = .next z ∧ z = s ∧ s.SameBytes z

/-- R131 with CTRL_DECODE of R110, accepted in every state. The layout is the spec's decision D24 (log 13). -/
def Obligations.ControlWriteSelectsUnitAndDensity : Prop :=
  ∀ (s : State) (d : Byte), ∃ z, exec (.wrControl d) s = .next z ∧
    z = { s with
      sel := if d.extractLsb' 1 2 = 0b01#2 then some .unit0 else if d.extractLsb' 1 2 = 0b10#2 then some .unit1 else none,
      dens := d.getLsbD 0 } ∧ s.SameBytes z

/-- R216 with R211 to R215: every bit of the byte a status read returns, and that the read clears `irq` and changes nothing
else. Bit numbers, the constant write-protect bit, the bits with no unit selected, and the clearing of `irq` are the spec's
decisions D8, D9, D10, D11, D26 (logs 14, 21). -/
def Obligations.StatusReadComputesEachBit : Prop :=
  ∀ s : State, ∃ z v, exec .rdStatus s = .next z ∧ z = { s with irq := false, busOut := some v } ∧ s.SameBytes z ∧
    (v.getLsbD 7 = true ↔ ∀ u, s.sel = some u → s.img u = none) ∧ v.getLsbD 6 = false ∧ v.getLsbD 5 = false ∧
    (v.getLsbD 4 = true ↔ s.err = some .recordNotFound) ∧ v.getLsbD 3 = false ∧
    (v.getLsbD 2 = true ↔ ∃ u, s.sel = some u ∧ s.head u = 0x00#8) ∧ v.getLsbD 1 = false ∧ v.getLsbD 0 = s.busy

/-- R217: from every state that meets the invariant a status read returns one of the twelve values of the table; busy and
record-not-found never show together (R216, corner case 1, an inference of the spec). -/
def Obligations.StatusValueIsOneOfTwelve : Prop :=
  ∀ s : State, s.Inv → ∃ z v, exec .rdStatus s = .next z ∧ z.busOut = some v ∧
    v ∈ [0x00#8, 0x01#8, 0x04#8, 0x05#8, 0x10#8, 0x14#8, 0x80#8, 0x84#8, 0x90#8, 0x94#8, 0x81#8, 0x85#8]

/-! ## Command acceptance (spec/40_register_access.md R121, spec/60_exceptions.md R225, R227) -/

/-- R260: every command but Force Interrupt, written while busy, changes nothing, the reserved bytes included. -/
def Obligations.BusyRejectsEveryOtherCommand : Prop :=
  ∀ (s : State) (c : Byte), s.busy = true → commandClass c ≠ .forceInterrupt →
    exec (.wrCommand c) s = .next s ∧ exec (decodeCommand c) s = .next s

/-- The reserved bytes: refused while idle, as the spec's model does (R185, R104, D5; log 8), and rejected, with no state
change, while busy (R121). -/
def Obligations.ReservedBytesRefusedIdleRejectedBusy : Prop :=
  ∀ (s : State) (x : BitVec 4),
    exec (.reservedE x) s =
      (if s.busy then .next s else .refused (.reservedCommand (BitVec.ofNat 8 (0xE0 + x.toNat)))) ∧
    exec (.reservedF x) s =
      (if s.busy then .next s else .refused (.reservedCommand (BitVec.ofNat 8 (0xF0 + x.toNat))))

/-- R121: an accepted command write is latched and ends either idle or with a transfer armed, and leaves an error only where
the command itself ended with one. Accepted: Force Interrupt, or any class that is not reserved while idle. The flags `irq`
and `err` rest on D7 and D26 (logs 14, 21). -/
def Obligations.AcceptedCommandEndsIdleOrArmed : Prop :=
  ∀ (s : State) (c : Byte),
    commandClass c = .forceInterrupt ∨ (s.busy = false ∧ commandClass c ≠ .reservedE ∧ commandClass c ≠ .reservedF) →
    ∃ z, exec (.wrCommand c) s = .next z ∧ z.cr = c ∧
      ((z.busy = false ∧ z.drq = false ∧ z.act = .none ∧ z.xoff = 0 ∧ z.xcnt = 0) ∨
        (z.busy = true ∧ z.drq = true ∧ z.act ≠ .none ∧ z.xoff = 0 ∧ z.err = none ∧ z.irq = false)) ∧
      (z.err ≠ none → z.busy = false ∧ z.irq = true) ∧
      z.sr = s.sr ∧ z.dr = s.dr ∧ z.sel = s.sel ∧ z.dens = s.dens ∧ s.SameBytes z

/-- The flag bits without effect (R94 to R97, R148; D3, D4, D31; log 20): two command bytes that differ in them alone leave
states that differ in `CR` alone, in every state. -/
def Obligations.IgnoredFlagBitsReachOnlyCR : Prop :=
  ∀ (s : State) (i j : Instr),
    ((∃ h v r h' v' r', i = .restore h v r ∧ j = .restore h' v' r') ∨
      (∃ h v r h' v' r', i = .seek h v r ∧ j = .seek h' v' r') ∨
      (∃ t h v r h' v' r', i = .step t h v r ∧ j = .step t h' v' r') ∨
      (∃ t h v r h' v' r', i = .stepIn t h v r ∧ j = .stepIn t h' v' r') ∨
      (∃ t h v r h' v' r', i = .stepOut t h v r ∧ j = .stepOut t h' v' r') ∨
      (∃ m l e u x l' e' u' x', i = .readSector m l e u x ∧ j = .readSector m l' e' u' x') ∨
      (∃ m l e u x l' e' u' x', i = .writeSector m l e u x ∧ j = .writeSector m l' e' u' x') ∨
      (∃ a b c d a' b' c' d', i = .readAddress a b c d ∧ j = .readAddress a' b' c' d') ∨
      (∃ a b c d b' c' d', i = .forceInterrupt a b c d ∧ j = .forceInterrupt a b' c' d')) →
    ∃ y z, exec i s = .next y ∧ exec j s = .next z ∧ { z with cr := y.cr } = y

/-! ## Positioning commands (spec/41_positioning_commands.md) -/

/-- R142: Restore, accepted, with or without an image or a unit. The direction latch, the interrupt and the case of no unit
rest on D14, D26, D16 (logs 14, 15, 16). -/
def Obligations.RestoreHomesTheSelectedHead : Prop :=
  ∀ (s : State) (h v : Bool) (r : BitVec 2), s.busy = false →
    ∃ z, exec (.restore h v r) s = .next z ∧ encode (.restore h v r) = [z.cr] ∧
      z = { s with cr := z.cr, err := none, irq := true, busy := false, drq := false, act := .none, xoff := 0, xcnt := 0,
                   tr := 0x00#8, sdir := .outward, heads := z.heads } ∧
      (∀ u, z.head u = if s.sel = some u then 0x00#8 else s.head u) ∧ s.SameBytes z

/-- R143: Seek, accepted. The head is clamped to the last track and TR takes the full destination (D13); the direction latch
and the interrupt rest on D14, D26 (logs 14, 15, 16). -/
def Obligations.SeekGoesToTheTrackInDR : Prop :=
  ∀ (s : State) (h v : Bool) (r : BitVec 2), s.busy = false →
    ∃ z, exec (.seek h v r) s = .next z ∧ encode (.seek h v r) = [z.cr] ∧
      z = { s with cr := z.cr, err := none, irq := true, busy := false, drq := false, act := .none, xoff := 0, xcnt := 0,
                   tr := s.dr, heads := z.heads,
                   sdir := if s.tr.toNat < s.dr.toNat then .inward else if s.dr.toNat < s.tr.toNat then .outward else s.sdir } ∧
      (∀ u, z.head u = if s.sel = some u then BitVec.ofNat 8 (min s.dr.toNat (s.limit u - 1)) else s.head u) ∧ s.SameBytes z

/-- R144 to R147: the Step family, accepted, in the latch's direction, inward or outward. The `T` update, the track-0 rule
and the latch rest on D14, D15; the bound without an image on D12 (logs 14, 15, 16). -/
def Obligations.StepFamilyMovesTheHeadByOne : Prop :=
  ∀ (s : State) (d : Dir) (t h v : Bool) (r : BitVec 2) (i : Instr), s.busy = false →
    (i = .step t h v r ∧ d = s.sdir ∨ i = .stepIn t h v r ∧ d = .inward ∨ i = .stepOut t h v r ∧ d = .outward) →
    ∃ z, exec i s = .next z ∧ encode i = [z.cr] ∧
      z = { s with cr := z.cr, err := none, irq := true, busy := false, drq := false, act := .none, xoff := 0, xcnt := 0,
                   tr := z.tr, sdir := d, heads := z.heads } ∧
      z.tr = (if d = .outward ∧ ∃ u, s.sel = some u ∧ s.head u = 0x00#8 then 0x00#8
        else if t then (if d = .inward then s.tr + 1 else s.tr - 1) else s.tr) ∧
      (∀ u, z.head u =
        if s.sel = some u then
          (if d = .inward then BitVec.ofNat 8 (min ((s.head u).toNat + 1) (s.limit u - 1))
            else if s.head u = 0x00#8 then 0x00#8 else s.head u - 1)
        else s.head u) ∧ s.SameBytes z

/-! ## Sector commands and Read Address (spec/42_sector_commands.md, spec/43_read_address_force_interrupt.md) -/

/-- R160, R163, R66: Read Sector, accepted, with an image and a valid address: the staging buffer takes the sector's bytes in
order, and the transfer is armed. The flags without effect and `irq` rest on D4, D26 (logs 14, 20). -/
def Obligations.ReadSectorStagesTheAddressedSector : Prop :=
  ∀ (s : State) (m l e u x : Bool) (d : Drive) (im : Image),
    s.busy = false → s.sel = some d → s.img d = some im → im.Valid s.tr s.sr →
    ∃ z, exec (.readSector m l e u x) s = .next z ∧ encode (.readSector m l e u x) = [z.cr] ∧
      z = { s with cr := z.cr, err := none, irq := false, busy := true, drq := true, act := .readSector m, xoff := 0,
                   xcnt := im.secSize, stage := z.stage } ∧
      (∀ k < im.secSize, z.stage[k]? =
        some (im.bytes.read ((s.tr.toNat * im.secCount + (s.sr.toNat - 1)) * im.secSize + k))) ∧
      (∀ k ≥ im.secSize, z.stage[k]? = s.stage[k]?) ∧ s.SameBytes z

/-- R161, R164: Write Sector, accepted, with an image and a valid address: armed, no image byte changed. The check at arming
is D18; the flags without effect and `irq` rest on D4, D26 (logs 14, 18, 20). -/
def Obligations.WriteSectorArmsWithoutTouchingTheImage : Prop :=
  ∀ (s : State) (m l e u a : Bool) (d : Drive) (im : Image),
    s.busy = false → s.sel = some d → s.img d = some im → im.Valid s.tr s.sr →
    ∃ z, exec (.writeSector m l e u a) s = .next z ∧ encode (.writeSector m l e u a) = [z.cr] ∧
      z = { s with cr := z.cr, err := none, irq := false, busy := true, drq := true, act := .writeSector m, xoff := 0,
                   xcnt := im.secSize } ∧ s.SameBytes z

/-- R180, R181: Read Address, accepted, with an image: six bytes staged, the head's track, 0, SR, the length code, and two
bytes of any value; TR and the validity of the sector play no part. The layout is D19 (logs 5, 17). -/
def Obligations.ReadAddressStagesTheDescriptor : Prop :=
  ∀ (s : State) (a b c e : Bool) (d : Drive) (im : Image),
    s.busy = false → s.sel = some d → s.img d = some im →
    ∃ z, exec (.readAddress a b c e) s = .next z ∧ encode (.readAddress a b c e) = [z.cr] ∧
      z = { s with cr := z.cr, err := none, irq := false, busy := true, drq := true, act := .readAddress, xoff := 0, xcnt := 6,
                   stage := z.stage, draws := s.draws + 1 } ∧
      z.stage[0]? = some (s.head d) ∧ z.stage[1]? = some 0x00#8 ∧ z.stage[2]? = some s.sr ∧
      (∀ n ≤ 3, im.secSize = 128 * 2 ^ n → z.stage[3]? = some (BitVec.ofNat 8 n)) ∧
      (∃ c1 c2, z.stage[4]? = some c1 ∧ z.stage[5]? = some c2) ∧ (∀ k ≥ 6, z.stage[k]? = s.stage[k]?) ∧ s.SameBytes z

/-- R221, R222, R224, R225: where a sector command or Read Address has no image it ends with DriveNotReady, and where a sector
command's address is not valid, with RecordNotFound; DriveNotReady comes first. That no unit counts as no image, the check
of a write at arming, and `irq` are D17, D18, D26 (logs 14, 16, 18). -/
def Obligations.DiskCommandFaultsEndIdle : Prop :=
  ∀ (s : State) (i : Instr) (c : Byte), s.busy = false → encode i = [c] →
    (((commandClass c = .readSector ∨ commandClass c = .writeSector ∨ commandClass c = .readAddress) →
        (∀ u, s.sel = some u → s.img u = none) →
        ∃ z, exec i s = .next z ∧ s.SameBytes z ∧
          z = { s with cr := c, err := some .driveNotReady, irq := true, busy := false, drq := false, act := .none,
                       xoff := 0, xcnt := 0 }) ∧
      ((commandClass c = .readSector ∨ commandClass c = .writeSector) →
        ∀ u im, s.sel = some u → s.img u = some im → ¬ im.Valid s.tr s.sr →
        ∃ z, exec i s = .next z ∧ s.SameBytes z ∧
          z = { s with cr := c, err := some .recordNotFound, irq := true, busy := false, drq := false, act := .none,
                       xoff := 0, xcnt := 0 }))

/-- R183: Force Interrupt, from every state, busy or not: the sequencer idle, the registers and the images as they were, so a
sector in progress is lost (R266). `err`, `irq` and the housekeeping are D7, D26, D31, D22 (logs 14, 21). -/
def Obligations.ForceInterruptIdlesAndKeepsRegisters : Prop :=
  ∀ (s : State) (i3 i2 i1 i0 : Bool),
    ∃ z, exec (.forceInterrupt i3 i2 i1 i0) s = .next z ∧ encode (.forceInterrupt i3 i2 i1 i0) = [z.cr] ∧
      z = { s with cr := z.cr, err := none, irq := i3, busy := false, drq := false, act := .none, xoff := 0, xcnt := 0 } ∧
      s.SameBytes z

/-! ## The data register (spec/44_data_transfer.md) -/

/-- R190: a read that moves a byte which is not the last: `stage[xoff]` returned and latched into DR (D20; log 19). -/
def Obligations.DataReadMovesOneByte : Prop :=
  ∀ (s : State) (b : Byte), s.drq = true → (s.act = .readAddress ∨ ∃ m, s.act = .readSector m) →
    s.stage[s.xoff]? = some b → s.xoff + 1 ≠ s.xcnt →
    ∃ z, exec .rdData s = .next z ∧ z = { s with dr := b, xoff := s.xoff + 1, busOut := some b } ∧ s.SameBytes z

/-- R190, R192, R223: the read of the last byte of a Read Address or of a single-sector read returns the byte and ends the
command. `irq` and the housekeeping are D26, D22 (logs 14, 19). -/
def Obligations.LastDataReadEndsTheCommand : Prop :=
  ∀ (s : State) (b : Byte), s.drq = true → (s.act = .readAddress ∨ s.act = .readSector false) →
    s.stage[s.xoff]? = some b → s.xoff + 1 = s.xcnt →
    ∃ z, exec .rdData s = .next z ∧ s.SameBytes z ∧
      z = { s with dr := b, busOut := some b, irq := true, busy := false, drq := false, act := .none, xoff := 0, xcnt := 0 }

/-- R192, R196, R197: the read of the last byte of a sector of a multiple-sector read: with the image there the address
advances and the next sector is staged, or, where there is none, the command ends with RecordNotFound at the advanced
address; with the image gone it ends with DriveNotReady at the old one. The byte is returned in every case (R190). The
head stays, and `irq` is set by the fault, by D23, D26 (logs 14, 23). -/
def Obligations.MultiSectorReadAdvancesOrFaults : Prop :=
  ∀ (s : State) (b : Byte), s.drq = true → s.act = .readSector true → s.stage[s.xoff]? = some b → s.xoff + 1 = s.xcnt →
    (∀ u im tr' sr', s.sel = some u → s.img u = some im → NextSector im.secCount s.tr s.sr tr' sr' → im.Valid tr' sr' →
      ∃ z, exec .rdData s = .next z ∧ s.SameBytes z ∧
        z = { s with dr := b, busOut := some b, tr := tr', sr := sr', xoff := 0, xcnt := im.secSize, busy := true,
                     stage := z.stage } ∧
        (∀ k < im.secSize, z.stage[k]? =
          some (im.bytes.read ((tr'.toNat * im.secCount + (sr'.toNat - 1)) * im.secSize + k))) ∧
        (∀ k ≥ im.secSize, z.stage[k]? = s.stage[k]?)) ∧
    (∀ u im tr' sr', s.sel = some u → s.img u = some im → NextSector im.secCount s.tr s.sr tr' sr' → ¬ im.Valid tr' sr' →
      ∃ z, exec .rdData s = .next z ∧ s.SameBytes z ∧
        z = { s with dr := b, busOut := some b, tr := tr', sr := sr', err := some .recordNotFound, irq := true,
                     busy := false, drq := false, act := .none, xoff := 0, xcnt := 0 }) ∧
    ((∀ u, s.sel = some u → s.img u = none) →
      ∃ z, exec .rdData s = .next z ∧ s.SameBytes z ∧
        z = { s with dr := b, busOut := some b, err := some .driveNotReady, irq := true, busy := false, drq := false,
                     act := .none, xoff := 0, xcnt := 0 })

/-- R190, R191: a data-register access that moves no byte, idle or in the wrong direction: a read returns DR and changes
nothing, a write stores DR and changes nothing else (D20, D21; log 19). -/
def Obligations.DataAccessOutsideATransferOnlyUsesDR : Prop :=
  ∀ (s : State) (d : Byte),
    (s.drq = false ∨ s.act = .none ∨ (∃ m, s.act = .writeSector m) →
      ∃ z, exec .rdData s = .next z ∧ z = { s with busOut := some s.dr } ∧ s.SameBytes z) ∧
    (s.drq = false ∨ s.act = .none ∨ s.act = .readAddress ∨ (∃ m, s.act = .readSector m) →
      ∃ z, exec (.wrData d) s = .next z ∧ z = { s with dr := d } ∧ s.SameBytes z)

/-- R191: a write that stages a byte which is not the last: no image byte changes. -/
def Obligations.DataWriteStagesOneByte : Prop :=
  ∀ (s : State) (m : Bool) (d : Byte), s.drq = true → s.act = .writeSector m → s.xoff + 1 ≠ s.xcnt →
    ∃ z, exec (.wrData d) s = .next z ∧ z = { s with dr := d, stage := s.stage.set s.xoff d, xoff := s.xoff + 1 } ∧
      s.SameBytes z

/-- R191, R194, R68, R66: the write that stages the last byte of a single-sector write stores the whole sector at
`lin(sel, TR, SR)`, marks the image dirty, and ends the command; every other byte of both images is as before. `irq` and the
housekeeping are D26, D22 (logs 14, 19). -/
def Obligations.LastDataWriteCommitsTheSector : Prop :=
  ∀ (s : State) (d : Byte) (u : Drive) (im : Image), s.drq = true → s.act = .writeSector false → s.xoff + 1 = s.xcnt →
    s.xcnt ≤ s.stage.length → s.sel = some u → s.img u = some im → im.secSize = s.xcnt → im.Valid s.tr s.sr →
    ∃ z im', exec (.wrData d) s = .next z ∧
      z = { s with dr := d, stage := s.stage.set s.xoff d, imgs := z.imgs, irq := true, busy := false, drq := false,
                   act := .none, xoff := 0, xcnt := 0 } ∧
      z.img u = some im' ∧ im' = { im with bytes := im'.bytes, dirty := true } ∧ (∀ v ≠ u, z.img v = s.img v) ∧
      ∀ a, z.byteAt u a =
        if im.lin s.tr.toNat s.sr.toNat ≤ a ∧ a < im.lin s.tr.toNat s.sr.toNat + s.xcnt
        then some (s.stagedWith d (a - im.lin s.tr.toNat s.sr.toNat)) else s.byteAt u a

/-- R194, R196, R197: the same for a multiple-sector write: the sector is committed, then the address advances, and the next
sector is armed or, where there is none, the command ends with RecordNotFound, the committed sector staying written. The
head stays, and `irq` is set by the fault, by D23, D26 (logs 14, 23). -/
def Obligations.MultiSectorWriteCommitsThenAdvances : Prop :=
  ∀ (s : State) (d : Byte) (u : Drive) (im : Image) (tr' sr' : Byte), s.drq = true → s.act = .writeSector true →
    s.xoff + 1 = s.xcnt → s.xcnt ≤ s.stage.length → s.sel = some u → s.img u = some im → im.secSize = s.xcnt →
    im.Valid s.tr s.sr → NextSector im.secCount s.tr s.sr tr' sr' →
    ∃ z im', exec (.wrData d) s = .next z ∧
      (im.Valid tr' sr' →
        z = { s with dr := d, stage := s.stage.set s.xoff d, imgs := z.imgs, tr := tr', sr := sr', xoff := 0, busy := true }) ∧
      (¬ im.Valid tr' sr' →
        z = { s with dr := d, stage := s.stage.set s.xoff d, imgs := z.imgs, tr := tr', sr := sr',
                     err := some .recordNotFound, irq := true, busy := false, drq := false, act := .none, xoff := 0, xcnt := 0 }) ∧
      z.img u = some im' ∧ im' = { im with bytes := im'.bytes, dirty := true } ∧ (∀ v ≠ u, z.img v = s.img v) ∧
      ∀ a, z.byteAt u a =
        if im.lin s.tr.toNat s.sr.toNat ≤ a ∧ a < im.lin s.tr.toNat s.sr.toNat + s.xcnt
        then some (s.stagedWith d (a - im.lin s.tr.toNat s.sr.toNat)) else s.byteAt u a

/-- R194: a commit that fails changes no image: DriveNotReady with the image gone, else RecordNotFound where the sector size
or the address no longer fits the selected unit. The order and the size test are D23, D24 (log 23). -/
def Obligations.FailedCommitLosesTheSector : Prop :=
  ∀ (s : State) (m : Bool) (d : Byte), s.drq = true → s.act = .writeSector m → s.xoff + 1 = s.xcnt →
    ((∀ u, s.sel = some u → s.img u = none) →
      ∃ z, exec (.wrData d) s = .next z ∧ s.SameBytes z ∧
        z = { s with dr := d, stage := s.stage.set s.xoff d, err := some .driveNotReady, irq := true, busy := false,
                     drq := false, act := .none, xoff := 0, xcnt := 0 }) ∧
    (∀ u im, s.sel = some u → s.img u = some im → (im.secSize ≠ s.xcnt ∨ ¬ im.Valid s.tr s.sr) →
      ∃ z, exec (.wrData d) s = .next z ∧ s.SameBytes z ∧
        z = { s with dr := d, stage := s.stage.set s.xoff d, err := some .recordNotFound, irq := true, busy := false,
                     drq := false, act := .none, xoff := 0, xcnt := 0 })

/-- R190, R192, R262: a single-sector read or a Read Address of `n` bytes returns exactly the staged bytes, in order, over `n`
reads; the `n`th ends the command and none before it does. -/
def Obligations.ReadTransferDeliversTheStagedBytesInOrder : Prop :=
  ∀ (s : State) (bs : List Byte), s.drq = true → (s.act = .readAddress ∨ s.act = .readSector false) → s.xoff = 0 →
    s.xcnt = bs.length → bs ≠ [] → s.stage.take bs.length = bs →
    (∃ z, dataReads bs.length s = some (bs, z) ∧ z.busy = false ∧ z.drq = false ∧ z.act = .none ∧ s.SameBytes z) ∧
    ∀ k < bs.length, ∃ z, dataReads k s = some (bs.take k, z) ∧ z.busy = s.busy ∧ z.drq = true ∧ z.xoff = k

/-- R191, R194, R262: a single-sector write of the bytes `ds` stores exactly those, in order, at `lin(sel, TR, SR)`, at the
last of the `ds.length` writes; before it no image byte changes and the command has not ended. -/
def Obligations.WriteTransferCommitsTheBytesInOrder : Prop :=
  ∀ (s : State) (ds : List Byte) (u : Drive) (im : Image), s.drq = true → s.act = .writeSector false → s.xoff = 0 →
    s.xcnt = ds.length → ds ≠ [] → ds.length ≤ s.stage.length → s.sel = some u → s.img u = some im →
    im.secSize = ds.length → im.Valid s.tr s.sr →
    (∃ z, dataWrites ds s = some z ∧ z.busy = false ∧ z.act = .none ∧ (∀ v ≠ u, z.img v = s.img v) ∧
      (∀ k (h : k < ds.length), z.byteAt u (im.lin s.tr.toNat s.sr.toNat + k) = some ds[k]) ∧
      ∀ a, a < im.lin s.tr.toNat s.sr.toNat ∨ im.lin s.tr.toNat s.sr.toNat + ds.length ≤ a →
        z.byteAt u a = s.byteAt u a) ∧
    ∀ k < ds.length, ∃ z, dataWrites (ds.take k) s = some z ∧ z.busy = s.busy ∧ z.xoff = k ∧ s.SameBytes z

/-! ## The disk-image space (spec/20_memory.md) -/

/-- R67 with R65 and R66: `read_sector` returns the sector's bytes in ascending order, or the failure, the image's absence
before the geometry. -/
def Obligations.ReadSectorPrimitiveFollowsItsRule : Prop :=
  ∀ (s : State) (u : Option Drive) (t n : Nat),
    ((∀ d, u = some d → s.img d = none) → s.readSector u t n = .error .driveNotReady) ∧
    ∀ d im, u = some d → s.img d = some im →
      (im.trackCount ≤ t ∨ n < 1 ∨ im.secCount < n → s.readSector u t n = .error .recordNotFound) ∧
      (t < im.trackCount → 1 ≤ n → n ≤ im.secCount → ∃ bs, s.readSector u t n = .ok bs ∧ bs.length = im.secSize ∧
        ∀ k < im.secSize, bs[k]? = some (im.bytes.read ((t * im.secCount + (n - 1)) * im.secSize + k)))

/-- R68 with R65 and R66: `write_sector` fails like `read_sector`, with no state after it; otherwise the sector's bytes are
those written, every other byte of the image and the other unit's image are as before, and the image is dirty. -/
def Obligations.WriteSectorPrimitiveFollowsItsRule : Prop :=
  ∀ (s : State) (u : Option Drive) (t n : Nat) (v : List Byte),
    ((∀ d, u = some d → s.img d = none) → s.writeSector u t n v = .error .driveNotReady) ∧
    ∀ d im, u = some d → s.img d = some im →
      (im.trackCount ≤ t ∨ n < 1 ∨ im.secCount < n → s.writeSector u t n v = .error .recordNotFound) ∧
      (t < im.trackCount → 1 ≤ n → n ≤ im.secCount → v.length = im.secSize →
        ∃ z im', s.writeSector u t n v = .ok z ∧ z = { s with imgs := z.imgs } ∧ (∀ w ≠ d, z.img w = s.img w) ∧
          z.img d = some im' ∧ im' = { im with bytes := im'.bytes, dirty := true } ∧
          (∀ k (h : k < v.length), im'.bytes.read ((t * im.secCount + (n - 1)) * im.secSize + k) = v[k]) ∧
          ∀ a, a < (t * im.secCount + (n - 1)) * im.secSize ∨
              (t * im.secCount + (n - 1)) * im.secSize + im.secSize ≤ a → im'.bytes.read a = im.bytes.read a)

/-- R66: a valid sector lies within the image, and two different valid sectors share no byte (an inference of the spec). -/
def Obligations.SectorsLieWithinTheImageAndApart : Prop :=
  ∀ (im : Image) (t n : Nat), t < im.trackCount → 1 ≤ n → n ≤ im.secCount →
    im.lin t n + im.secSize ≤ im.size ∧
    ∀ t' n', t' < im.trackCount → 1 ≤ n' → n' ≤ im.secCount → (t, n) ≠ (t', n') →
      im.lin t n + im.secSize ≤ im.lin t' n' ∨ im.lin t' n' + im.secSize ≤ im.lin t n

/-! ## Reset and host events (spec/10_state.md R43, spec/70_reset_and_hazards.md) -/

/-- R43: the state after reset. Of these the source gives `busy` and the empty units; the rest are the spec's decisions and
inferences (D27, D14; logs 4, 11), and the staging buffer, `busOut`, `draws` and `script` are the model's (logs 7, 3, 5, 1). -/
def Obligations.ResetLeavesTheIdleState : Prop :=
  State.reset =
    { cr := 0x00#8, tr := 0x00#8, sr := 0x00#8, dr := 0x00#8, busy := false, drq := false, irq := false, err := none,
      act := .none, xoff := 0, xcnt := 0, stage := List.replicate 1024 0x00#8, sdir := Config.stepDirReset, sel := none,
      dens := false, heads := ⟨0x00#8, 0x00#8⟩, imgs := ⟨none, none⟩, busOut := none, draws := 0, script := [] } ∧
  State.reset.status = 0x80#8

/-- R250: `Init`, at any step boundary, gives the model's reset state; the inputs still to come stay, and the draw counter goes
on (D28; logs 1, 5, 22). Of the reset state's values R43 leaves the staging buffer unspecified, here 0x00 (log 7, unsafe), and
the latch open, here one constant at every Init (log 4, unsafe); the registers and flags are D27 (log 11). -/
def Obligations.InitGivesTheResetState : Prop :=
  ∀ (s : State) (rest : List Input), s.script = .init :: rest →
    step s = .next { State.reset with script := rest, draws := s.draws }

/-- R250: "After `init`, status read returns "not ready" for both drives and busy is clear", whichever unit is selected. The
bit numbers and the control byte are D8, D24 (logs 13, 21). -/
def Obligations.BothDrivesNotReadyAfterInit : Prop :=
  ∀ (s : State) (rest : List Input) (z : State) (d : Byte), s.script = .init :: rest → step s = .next z →
    ∃ y x v, exec (.wrControl d) z = .next y ∧ exec .rdStatus y = .next x ∧ x.busOut = some v ∧
      v.getLsbD 7 = true ∧ v.getLsbD 0 = false

/-- R256: `Attach` of a file of 204800 bytes to an empty unit: the unit holds the file's bytes, clean, with the one geometry;
the head is clamped (D12; log 16) and nothing else changes. -/
def Obligations.AttachPutsTheFileInTheUnit : Prop :=
  ∀ (s : State) (u : Drive) (file : List Run) (rest : List Input),
    s.script = .attach u file :: rest → s.img u = none → fileSize file = 204800 →
    ∃ z im, step s = .next z ∧ z = { s with script := rest, busOut := none, heads := z.heads, imgs := z.imgs } ∧
      z.img u = some im ∧ im.secSize = 1024 ∧ im.secCount = 5 ∧ im.trackCount = 40 ∧ im.dirty = false ∧
      (∀ a, z.byteAt u a = fileByte file a) ∧ (z.head u).toNat = min (s.head u).toNat 39 ∧
      ∀ v ≠ u, z.img v = s.img v ∧ z.head v = s.head v

/-- R256, U14, U15: `Attach` on an occupied unit is given no meaning; on an empty one, with a size that is in no entry of
GEOMETRY_TABLE, it is no event (D28; log 9). -/
def Obligations.AttachOutsideItsPremises : Prop :=
  ∀ (s : State) (u : Drive) (file : List Run) (rest : List Input), s.script = .attach u file :: rest →
    (s.img u ≠ none → step s = .refused (.attachOccupied u)) ∧
    (s.img u = none → fileSize file ≠ 204800 → step s = .next { s with script := rest, busOut := none })

/-- R257: `Detach` empties the unit, occupied or not, busy or not; the head, the selection and all controller state stay, and
if the unit is the selected one the status byte shows bit 7, a bit number that is D8 (log 21). -/
def Obligations.DetachEmptiesTheUnit : Prop :=
  ∀ (s : State) (u : Drive) (rest : List Input), s.script = .detach u :: rest →
    ∃ z, step s = .next z ∧ z = { s with script := rest, busOut := none, imgs := z.imgs } ∧ z.img u = none ∧
      (∀ v ≠ u, z.img v = s.img v) ∧ (s.sel = some u → z.status.getLsbD 7 = true)

/-! ## The whole machine -/

/-- The invariant of R41 holds at reset. -/
def Obligations.InvariantHoldsAtReset : Prop := State.reset.Inv

/-- R41: from every state that meets the invariant, a step of any kind, a bus transaction or a host event, leads to one that
meets it: busy, data request and sequencer agree, the transfer offset is within its count, the heads are on their tracks,
and both images are canonical, of a listed geometry and within their size. -/
def Obligations.EveryStepKeepsTheInvariant : Prop :=
  ∀ s t : State, s.Inv → step s = .next t → t.Inv

/-- R120: no transaction fails toward the CPU. Every instruction answers a next state in every state, but for a reserved
command byte written while idle, which the spec's model refuses (R185, D5; log 8). -/
def Obligations.EveryTransactionCompletesUnlessReserved : Prop :=
  ∀ (i : Instr) (s : State),
    (∃ z, exec i s = .next z) ∨
      (s.busy = false ∧ ((∃ x, i = .reservedE x) ∨ (∃ x, i = .reservedF x) ∨ ∃ c, i = .wrCommand c ∧ 0xE0 ≤ c.toNat) ∧
        ∃ c, exec i s = .refused (.reservedCommand c))

/-- R35, R36: no instruction but a control write changes the selection or the density. (`Init` resets both, R250.) -/
def Obligations.OnlyControlWritesChangeTheSelection : Prop :=
  ∀ (i : Instr) (s t : State), exec i s = .next t → (∀ d, i ≠ .wrControl d) → t.sel = s.sel ∧ t.dens = s.dens

/-- R37, R250, R256: the writers of a head, over every step: a positioning command, while idle and on the selected unit; `Init`,
which sets it to 0; `Attach` on its empty unit, which clamps it to the last track. The bytes below 0x80 are the positioning
commands by D2, the clamp is D12, the 0 is D27 (logs 11, 12, 16). -/
def Obligations.HeadsMoveOnlyByTheirWriters : Prop :=
  ∀ (s t : State) (u : Drive), step s = .next t → t.head u ≠ s.head u →
    ∃ inp rest, s.script = inp :: rest ∧
      ((∃ f c, inp = .bus f ∧ CommandFrame f c ∧ c.toNat < 0x80 ∧ s.busy = false ∧ s.sel = some u) ∨
        (inp = .init ∧ t.head u = 0x00#8) ∨
        (∃ file, inp = .attach u file ∧ s.img u = none ∧ fileSize file = 204800 ∧ 39 < (s.head u).toNat ∧ t.head u = 39#8))

/-- R40, R68, R71, R161, R250: the writers of image bytes, over every step: the data-register write that ends a sector of a
write transfer, on the selected unit, within the sector `(sel, TR, SR)`, which leaves the image dirty; `Attach` to an empty
unit, whose bytes are then the file's; `Detach` and `Init`, after which there are none. That `Init` empties a unit that held
an image is D28 (log 22). -/
def Obligations.ImageBytesChangeOnlyByTheirWriters : Prop :=
  ∀ (s t : State) (u : Drive) (a : Nat), step s = .next t → t.byteAt u a ≠ s.byteAt u a →
    ∃ inp rest, s.script = inp :: rest ∧
      ((∃ d, inp = .bus (writeFrame 0x3#4 d) ∧ s.sel = some u ∧ s.drq = true ∧ (∃ m, s.act = .writeSector m) ∧
          s.xoff + 1 = s.xcnt ∧ ∃ im im', s.img u = some im ∧ t.img u = some im' ∧ im'.dirty = true ∧ im.Valid s.tr s.sr ∧
            im.lin s.tr.toNat s.sr.toNat ≤ a ∧ a < im.lin s.tr.toNat s.sr.toNat + im.secSize) ∨
        (∃ file, inp = .attach u file ∧ s.img u = none ∧ fileSize file = 204800 ∧ t.byteAt u a = fileByte file a) ∨
        ((inp = .detach u ∨ inp = .init) ∧ t.byteAt u a = none))

/-- R227, R250: the latched error is cleared by the next accepted command write, any class, Force Interrupt included, or by
`Init`; no read, no other write and no other host event clears it. Accepted: `CR` holds the byte after. What counts as a new
command is D7 (log 21), the byte's class D2 (log 12). -/
def Obligations.ErrorClearsOnlyByACommandOrInit : Prop :=
  ∀ (s t : State) (e : ControllerFault), s.Inv → s.err = some e → step s = .next t → t.err ≠ some e →
    ∃ inp rest, s.script = inp :: rest ∧
      ((∃ f c, inp = .bus f ∧ CommandFrame f c ∧ commandClass c ≠ .reservedE ∧ commandClass c ≠ .reservedF ∧ t.cr = c) ∨
        (inp = .init ∧ t.err = none))

/-- R228: the writers of `irq`, over every step. An accepted command leaves it set exactly where the command has ended, Force
Interrupt leaves it a copy of `I3`, and a rejected one leaves it; a status read and `Init` clear it; a data access that ends
the command, that is after which the data request has fallen, sets it, and any other data access leaves it; nothing else
changes it, neither the other transactions nor `Attach` nor `Detach`. All of it is the spec's decision D26, D31 (log 14); the
class of a byte is D2 (log 12), and a step with no input the model's (log 25). -/
def Obligations.InterruptFlagHasTheListedWriters : Prop :=
  ∀ s t : State, step s = .next t →
    (s.script = [] → t.irq = s.irq) ∧
    ∀ inp rest, s.script = inp :: rest →
      (inp = .init → t.irq = false) ∧
      (((∃ u file, inp = .attach u file) ∨ ∃ u, inp = .detach u) → t.irq = s.irq) ∧
      ∀ f, inp = .bus f →
        (∀ c, CommandFrame f c →
          t.irq = if commandClass c = .forceInterrupt then c.getLsbD 3 else if s.busy then s.irq else !t.busy) ∧
        (f = readFrame 0x0#4 → t.irq = false) ∧
        ((f = readFrame 0x3#4 ∨ ∃ d, f = writeFrame 0x3#4 d) →
          if s.drq = true ∧ t.drq = false then t.irq = true ∧ t.busy = false else t.irq = s.irq) ∧
        ((∀ c, ¬ CommandFrame f c) → f ≠ readFrame 0x0#4 → f ≠ readFrame 0x3#4 → (∀ d, f ≠ writeFrame 0x3#4 d) →
          t.irq = s.irq)

/-- R36, R42: no instruction reads `dens` or `CR`: runs from two states that differ in them alone return the same byte and end
in states that differ in them alone. That density has no effect is D25. -/
def Obligations.DensityAndCommandRegisterAreUnobservable : Prop :=
  ∀ (i : Instr) (s t : State) (d : Bool) (c : Byte), exec i s = .next t →
    ∃ z, exec i { s with dens := d, cr := c } = .next z ∧ z.busOut = t.busOut ∧ { z with dens := t.dens, cr := t.cr } = t

/-- R69: the head positions play no part in a sector transfer: with other heads the sector commands and the data register do
the same. -/
def Obligations.SectorTransfersIgnoreTheHeads : Prop :=
  ∀ (s t : State) (p : PerDrive Byte) (i : Instr),
    ((∃ m l e u x, i = .readSector m l e u x) ∨ (∃ m l e u a, i = .writeSector m l e u a) ∨ i = .rdData ∨
      ∃ d, i = .wrData d) →
    exec i s = .next t → exec i { s with heads := p } = .next { t with heads := p }

/-- R75, item 1: a read transfer sees the image as it was at arming: the byte a data-register read returns, and before the last
byte the whole effect, do not depend on what the units hold now or on which one is selected. -/
def Obligations.ReadTransferIsASnapshot : Prop :=
  ∀ (s t : State) (p : PerDrive (Option Image)) (q : Option Drive), exec .rdData s = .next t →
    ∃ z, exec .rdData { s with imgs := p, sel := q } = .next z ∧ z.busOut = t.busOut ∧ z.dr = t.dr ∧
      (s.xoff + 1 ≠ s.xcnt → z = { t with imgs := p, sel := q })
end

