-- ==== Sys2Proof/Laws/Memory.lean ====
section
/-! SUPPORT. Memory: what reading gives after a store, and that every operation keeps the canonical form. -/

namespace Sys2Proof.Machine

@[simp] theorem Memory.read_nil (a : Nat) : Memory.read [] a = Memory.unlisted := rfl

theorem Memory.read_cons (k : Nat) (v : Byte) (m : Memory) (a : Nat) :
    Memory.read ((k, v) :: m) a = if k = a then v else Memory.read m a := rfl

/-- Reading where no entry stands. -/
theorem Memory.read_of_absent {m : Memory} {a : Nat} (h : ∀ c ∈ m, c.1 ≠ a) : Memory.read m a = Memory.unlisted := by
  induction m with
  | nil => rfl
  | cons c m ih =>
    obtain ⟨k, v⟩ := c
    rw [Memory.read_cons, if_neg (h (k, v) (by simp)), ih fun c hc => h c (by simp [hc])]

theorem Memory.read_append_left {m n : Memory} {a : Nat} (h : ∀ c ∈ n, c.1 ≠ a) :
    Memory.read (m ++ n) a = Memory.read m a := by
  induction m with
  | nil => exact Memory.read_of_absent h
  | cons c m ih => obtain ⟨k, v⟩ := c; simp only [List.cons_append, Memory.read_cons, ih]

theorem Memory.read_append_right {m n : Memory} {a : Nat} (h : ∀ c ∈ m, c.1 ≠ a) :
    Memory.read (m ++ n) a = Memory.read n a := by
  induction m with
  | nil => rfl
  | cons c m ih =>
    obtain ⟨k, v⟩ := c
    rw [List.cons_append, Memory.read_cons, if_neg (h (k, v) (by simp)), ih fun c hc => h c (by simp [hc])]

/-- A filter by offset keeps what is read at the offsets it keeps. -/
theorem Memory.read_filter {m : Memory} {p : Nat → Bool} {a : Nat} (h : p a = true) :
    Memory.read (m.filter fun c => p c.1) a = Memory.read m a := by
  induction m with
  | nil => rfl
  | cons c m ih =>
    obtain ⟨k, v⟩ := c
    by_cases hk : k = a
    · subst hk; simp [h, Memory.read_cons]
    · cases hp : p k <;> simp [hp, Memory.read_cons, hk, ih]

/-- Where the cells of a run of bytes stand, and that they hold no unlisted byte. -/
theorem Memory.mem_cells {vs : List Byte} {b : Nat} {c : Host.Cell} (h : c ∈ Memory.cells b vs) :
    b ≤ c.1 ∧ c.1 < b + vs.length ∧ c.2 ≠ Memory.unlisted := by
  induction vs generalizing b with
  | nil => simp [Memory.cells] at h
  | cons v vs ih =>
    unfold Memory.cells at h
    split at h
    · have := ih h; simp only [List.length_cons]; exact ⟨by omega, by omega, this.2.2⟩
    · next hv =>
      rcases List.mem_cons.mp h with rfl | h
      · exact ⟨le_refl _, by simp, hv⟩
      · have := ih h; simp only [List.length_cons]; exact ⟨by omega, by omega, this.2.2⟩

theorem Memory.read_cells (vs : List Byte) (b i : Nat) (h : i < vs.length) :
    Memory.read (Memory.cells b vs) (b + i) = vs[i] := by
  induction vs generalizing b i with
  | nil => simp at h
  | cons v vs ih =>
    unfold Memory.cells
    cases i with
    | zero =>
      have absent : Memory.read (Memory.cells (b + 1) vs) b = Memory.unlisted :=
        Memory.read_of_absent fun c hc => by have := Memory.mem_cells hc; omega
      split <;> simp_all [Memory.read_cons]
    | succ j =>
      have step := ih (b + 1) j (by simpa using h)
      rw [show b + (j + 1) = b + 1 + j by omega]
      split
      · simpa using step
      · rw [Memory.read_cons, if_neg (by omega)]; simpa using step

theorem Memory.cells_pairwise (vs : List Byte) (b : Nat) :
    (Memory.cells b vs).Pairwise fun c d => c.1 < d.1 := by
  induction vs generalizing b with
  | nil => exact .nil
  | cons v vs ih =>
    unfold Memory.cells
    split
    · exact ih _
    · exact List.pairwise_cons.mpr ⟨fun c hc => by have := Memory.mem_cells hc; omega, ih _⟩

/-- The canonical form, said with the library's words. -/
theorem Memory.wfFrom_iff (m : Memory) (lo : Nat) :
    Memory.wfFrom lo m = true ↔
      (m.Pairwise fun c d => c.1 < d.1) ∧ ∀ c ∈ m, lo ≤ c.1 ∧ c.2 ≠ Memory.unlisted := by
  induction m generalizing lo with
  | nil => simp [Memory.wfFrom]
  | cons c m ih =>
    obtain ⟨k, v⟩ := c
    simp only [Memory.wfFrom, Bool.and_eq_true, decide_eq_true_eq, bne_iff_ne, ih, List.pairwise_cons,
      List.forall_mem_cons]
    constructor
    · rintro ⟨⟨hk, hv⟩, hp, hm⟩
      exact ⟨⟨fun d hd => by have := hm d hd; omega, hp⟩, ⟨hk, hv⟩,
        fun d hd => ⟨by have := hm d hd; omega, (hm d hd).2⟩⟩
    · rintro ⟨⟨hlt, hp⟩, ⟨hk, hv⟩, hm⟩
      exact ⟨⟨hk, hv⟩, hp, fun d hd => ⟨by have := hlt d hd; omega, (hm d hd).2⟩⟩

theorem Memory.wf_iff (m : Memory) :
    m.wf = true ↔ (m.Pairwise fun c d => c.1 < d.1) ∧ ∀ c ∈ m, c.2 ≠ Memory.unlisted := by
  simp [Memory.wf, Memory.wfFrom_iff]

/-- What reading gives after a store: the byte stored inside the run, what was there before outside it. -/
theorem Memory.read_store (m : Memory) (a : Nat) (vs : List Byte) (x : Nat) :
    (m.store a vs).read x =
      if h : a ≤ x ∧ x - a < vs.length then vs[x - a]'h.2 else m.read x := by
  have low : ∀ c ∈ m.filter (fun c => decide (c.1 < a)), c.1 < a := by simp
  have high : ∀ c ∈ m.filter (fun c => decide (a + vs.length ≤ c.1)), a + vs.length ≤ c.1 := by simp
  unfold Memory.store
  split
  · next h =>
    rw [Memory.read_append_left fun c hc => by have := high c hc; omega,
      Memory.read_append_right fun c hc => by have := low c hc; omega]
    have := Memory.read_cells vs a (x - a) h.2
    rwa [show a + (x - a) = x by omega] at this
  · next h =>
    by_cases hx : x < a
    · rw [Memory.read_append_left fun c hc => by have := high c hc; omega,
        Memory.read_append_left fun c hc => by have := Memory.mem_cells hc; omega]
      exact Memory.read_filter (p := fun k => decide (k < a)) (by simpa using hx)
    · rw [Memory.read_append_right fun c hc => by
        rcases List.mem_append.mp hc with hc | hc
        · have := low c hc; omega
        · have := Memory.mem_cells hc; omega]
      exact Memory.read_filter (p := fun k => decide (a + vs.length ≤ k)) (by simp; omega)

theorem Memory.read_store_inside (m : Memory) (a : Nat) (vs : List Byte) (i : Nat) (h : i < vs.length) :
    (m.store a vs).read (a + i) = vs[i] := by
  rw [Memory.read_store, dif_pos ⟨by omega, by omega⟩]; congr 1; omega

theorem Memory.read_store_outside (m : Memory) (a : Nat) (vs : List Byte) (x : Nat) (h : x < a ∨ a + vs.length ≤ x) :
    (m.store a vs).read x = m.read x := by
  rw [Memory.read_store, dif_neg (by omega)]

/-- An entry after a store stands in the run, or stood in the memory. -/
theorem Memory.mem_store {m : Memory} {a : Nat} {vs : List Byte} {c : Host.Cell} (h : c ∈ m.store a vs) :
    c ∈ m ∨ (a ≤ c.1 ∧ c.1 < a + vs.length ∧ c.2 ≠ Memory.unlisted) := by
  simp only [Memory.store, List.mem_append, List.mem_filter] at h
  rcases h with (⟨h, _⟩ | h) | ⟨h, _⟩
  · exact .inl h
  · exact .inr (Memory.mem_cells h)
  · exact .inl h

/-- A store keeps the canonical form. -/
theorem Memory.store_wf {m : Memory} (h : m.wf = true) (a : Nat) (vs : List Byte) : (m.store a vs).wf = true := by
  rw [Memory.wf_iff] at h ⊢
  refine ⟨?_, fun c hc => ?_⟩
  · rw [Memory.store, List.pairwise_append, List.pairwise_append]
    refine ⟨⟨h.1.filter _, Memory.cells_pairwise _ _, fun c hc d hd => ?_⟩, h.1.filter _, fun c hc d hd => ?_⟩
    · have := Memory.mem_cells hd; simp at hc; omega
    · simp only [List.mem_append, List.mem_filter, decide_eq_true_eq] at hc hd
      rcases hc with hc | hc
      · omega
      · have := Memory.mem_cells hc; omega
  · rcases Memory.mem_store hc with hc | hc
    · exact h.2 c hc
    · exact hc.2.2

@[simp] theorem Memory.load_length (m : Memory) (a n : Nat) : (m.load a n).length = n := by simp [Memory.load]

/-- The bytes of a load, in ascending order of offset. -/
theorem Memory.load_getElem (m : Memory) (a n i : Nat) (h : i < n) :
    (m.load a n)[i]'(by simpa using h) = m.read (a + i) := by
  simp only [Memory.load, List.getElem_map, List.getElem_range]
  exact Memory.read_filter (p := fun k => decide (a ≤ k) && decide (k < a + n)) (by simp; omega)

theorem Memory.load_getElem? (m : Memory) (a n i : Nat) (h : i < n) : (m.load a n)[i]? = some (m.read (a + i)) := by
  rw [List.getElem?_eq_getElem (by simpa using h), Memory.load_getElem m a n i h]

/-- Where the entries of a disk file stand. -/
theorem mem_fileMemory {rs : List Run} {b : Nat} {c : Host.Cell} (h : c ∈ fileMemory b rs) :
    b ≤ c.1 ∧ c.1 < b + fileSize rs ∧ c.2 ≠ Memory.unlisted := by
  induction rs generalizing b with
  | nil => simp [fileMemory] at h
  | cons r rs ih =>
    simp only [fileMemory, List.mem_append] at h
    simp only [fileSize]
    rcases h with h | h
    · have := Memory.mem_cells h; simp only [List.length_replicate] at this; exact ⟨by omega, by omega, this.2.2⟩
    · have := ih h; exact ⟨by omega, by omega, this.2.2⟩

theorem fileMemory_pairwise (rs : List Run) (b : Nat) : (fileMemory b rs).Pairwise fun c d => c.1 < d.1 := by
  induction rs generalizing b with
  | nil => exact .nil
  | cons r rs ih =>
    rw [fileMemory, List.pairwise_append]
    refine ⟨Memory.cells_pairwise _ _, ih _, fun c hc d hd => ?_⟩
    have h1 := Memory.mem_cells hc; have h2 := mem_fileMemory hd
    simp only [List.length_replicate] at h1; omega

/-- The memory of a disk file is canonical. -/
theorem fileMemory_wf (rs : List Run) : (fileMemory 0 rs).wf = true :=
  (Memory.wf_iff _).mpr ⟨fileMemory_pairwise rs 0, fun _ hc => (mem_fileMemory hc).2.2⟩

/-- Reading the memory of a disk file gives the file's bytes. -/
theorem read_fileMemory (rs : List Run) (b a : Nat) :
    (fileMemory b rs).read (b + a) = (fileByte rs a).getD Memory.unlisted := by
  induction rs generalizing b a with
  | nil => rfl
  | cons r rs ih =>
    simp only [fileMemory, fileByte]
    split
    · next h =>
      rw [Memory.read_append_left fun c hc => by have := mem_fileMemory hc; omega,
        Memory.read_cells _ b a (by simpa using h)]
      simp
    · next h =>
      rw [Memory.read_append_right fun c hc => by
        have := Memory.mem_cells hc; simp only [List.length_replicate] at this; omega]
      have := ih (b + r.count) (a - r.count)
      rwa [show b + r.count + (a - r.count) = b + a by omega] at this

/-- A disk file has a byte at every offset below its size. -/
theorem fileByte_isSome (rs : List Run) (a : Nat) : (fileByte rs a).isSome = decide (a < fileSize rs) := by
  induction rs generalizing a with
  | nil => simp [fileByte, fileSize]
  | cons r rs ih =>
    rw [Bool.eq_iff_iff, decide_eq_true_iff]
    simp only [fileByte, fileSize]
    split
    · simp only [Option.isSome_some, true_iff]; omega
    · rw [ih, decide_eq_true_iff]; omega

end Sys2Proof.Machine
end

