-- ==== Sys2Proof/Laws/State.lean ====
section
/-! SUPPORT. One lemma per field per update of State, true by rfl, so that no proof unfolds an update; and what reading a
unit's value gives after it is set. -/

namespace Sys2Proof.Machine

@[simp] theorem PerDrive.get_set_same {α : Type} (p : PerDrive α) (u : Drive) (x : α) : (p.set u x).get u = x := by
  cases u <;> rfl

@[simp] theorem PerDrive.get_set_other {α : Type} (p : PerDrive α) {u v : Drive} (x : α) (h : v ≠ u) :
    (p.set u x).get v = p.get v := by
  cases u <;> cases v <;> first | rfl | exact absurd rfl h

theorem PerDrive.get_set {α : Type} (p : PerDrive α) (u v : Drive) (x : α) :
    (p.set u x).get v = if v = u then x else p.get v := by
  cases u <;> cases v <;> rfl

/-! `State.setImg` -/

@[simp] theorem State.setImg_cr (s : State) (u : Drive) (x : Option Image) :
    (s.setImg u x).cr = s.cr := rfl

@[simp] theorem State.setImg_tr (s : State) (u : Drive) (x : Option Image) :
    (s.setImg u x).tr = s.tr := rfl

@[simp] theorem State.setImg_sr (s : State) (u : Drive) (x : Option Image) :
    (s.setImg u x).sr = s.sr := rfl

@[simp] theorem State.setImg_dr (s : State) (u : Drive) (x : Option Image) :
    (s.setImg u x).dr = s.dr := rfl

@[simp] theorem State.setImg_busy (s : State) (u : Drive) (x : Option Image) :
    (s.setImg u x).busy = s.busy := rfl

@[simp] theorem State.setImg_drq (s : State) (u : Drive) (x : Option Image) :
    (s.setImg u x).drq = s.drq := rfl

@[simp] theorem State.setImg_irq (s : State) (u : Drive) (x : Option Image) :
    (s.setImg u x).irq = s.irq := rfl

@[simp] theorem State.setImg_err (s : State) (u : Drive) (x : Option Image) :
    (s.setImg u x).err = s.err := rfl

@[simp] theorem State.setImg_act (s : State) (u : Drive) (x : Option Image) :
    (s.setImg u x).act = s.act := rfl

@[simp] theorem State.setImg_xoff (s : State) (u : Drive) (x : Option Image) :
    (s.setImg u x).xoff = s.xoff := rfl

@[simp] theorem State.setImg_xcnt (s : State) (u : Drive) (x : Option Image) :
    (s.setImg u x).xcnt = s.xcnt := rfl

@[simp] theorem State.setImg_stage (s : State) (u : Drive) (x : Option Image) :
    (s.setImg u x).stage = s.stage := rfl

@[simp] theorem State.setImg_sdir (s : State) (u : Drive) (x : Option Image) :
    (s.setImg u x).sdir = s.sdir := rfl

@[simp] theorem State.setImg_sel (s : State) (u : Drive) (x : Option Image) :
    (s.setImg u x).sel = s.sel := rfl

@[simp] theorem State.setImg_dens (s : State) (u : Drive) (x : Option Image) :
    (s.setImg u x).dens = s.dens := rfl

@[simp] theorem State.setImg_heads (s : State) (u : Drive) (x : Option Image) :
    (s.setImg u x).heads = s.heads := rfl

@[simp] theorem State.setImg_imgs (s : State) (u : Drive) (x : Option Image) :
    (s.setImg u x).imgs = s.imgs.set u x := rfl

@[simp] theorem State.setImg_busOut (s : State) (u : Drive) (x : Option Image) :
    (s.setImg u x).busOut = s.busOut := rfl

@[simp] theorem State.setImg_draws (s : State) (u : Drive) (x : Option Image) :
    (s.setImg u x).draws = s.draws := rfl

@[simp] theorem State.setImg_script (s : State) (u : Drive) (x : Option Image) :
    (s.setImg u x).script = s.script := rfl

/-! `State.setHead` -/

@[simp] theorem State.setHead_cr (s : State) (u : Drive) (t : Byte) :
    (s.setHead u t).cr = s.cr := rfl

@[simp] theorem State.setHead_tr (s : State) (u : Drive) (t : Byte) :
    (s.setHead u t).tr = s.tr := rfl

@[simp] theorem State.setHead_sr (s : State) (u : Drive) (t : Byte) :
    (s.setHead u t).sr = s.sr := rfl

@[simp] theorem State.setHead_dr (s : State) (u : Drive) (t : Byte) :
    (s.setHead u t).dr = s.dr := rfl

@[simp] theorem State.setHead_busy (s : State) (u : Drive) (t : Byte) :
    (s.setHead u t).busy = s.busy := rfl

@[simp] theorem State.setHead_drq (s : State) (u : Drive) (t : Byte) :
    (s.setHead u t).drq = s.drq := rfl

@[simp] theorem State.setHead_irq (s : State) (u : Drive) (t : Byte) :
    (s.setHead u t).irq = s.irq := rfl

@[simp] theorem State.setHead_err (s : State) (u : Drive) (t : Byte) :
    (s.setHead u t).err = s.err := rfl

@[simp] theorem State.setHead_act (s : State) (u : Drive) (t : Byte) :
    (s.setHead u t).act = s.act := rfl

@[simp] theorem State.setHead_xoff (s : State) (u : Drive) (t : Byte) :
    (s.setHead u t).xoff = s.xoff := rfl

@[simp] theorem State.setHead_xcnt (s : State) (u : Drive) (t : Byte) :
    (s.setHead u t).xcnt = s.xcnt := rfl

@[simp] theorem State.setHead_stage (s : State) (u : Drive) (t : Byte) :
    (s.setHead u t).stage = s.stage := rfl

@[simp] theorem State.setHead_sdir (s : State) (u : Drive) (t : Byte) :
    (s.setHead u t).sdir = s.sdir := rfl

@[simp] theorem State.setHead_sel (s : State) (u : Drive) (t : Byte) :
    (s.setHead u t).sel = s.sel := rfl

@[simp] theorem State.setHead_dens (s : State) (u : Drive) (t : Byte) :
    (s.setHead u t).dens = s.dens := rfl

@[simp] theorem State.setHead_heads (s : State) (u : Drive) (t : Byte) :
    (s.setHead u t).heads = s.heads.set u t := rfl

@[simp] theorem State.setHead_imgs (s : State) (u : Drive) (t : Byte) :
    (s.setHead u t).imgs = s.imgs := rfl

@[simp] theorem State.setHead_busOut (s : State) (u : Drive) (t : Byte) :
    (s.setHead u t).busOut = s.busOut := rfl

@[simp] theorem State.setHead_draws (s : State) (u : Drive) (t : Byte) :
    (s.setHead u t).draws = s.draws := rfl

@[simp] theorem State.setHead_script (s : State) (u : Drive) (t : Byte) :
    (s.setHead u t).script = s.script := rfl

/-! `State.setStage` -/

@[simp] theorem State.setStage_cr (s : State) (i : Nat) (v : Byte) :
    (s.setStage i v).cr = s.cr := rfl

@[simp] theorem State.setStage_tr (s : State) (i : Nat) (v : Byte) :
    (s.setStage i v).tr = s.tr := rfl

@[simp] theorem State.setStage_sr (s : State) (i : Nat) (v : Byte) :
    (s.setStage i v).sr = s.sr := rfl

@[simp] theorem State.setStage_dr (s : State) (i : Nat) (v : Byte) :
    (s.setStage i v).dr = s.dr := rfl

@[simp] theorem State.setStage_busy (s : State) (i : Nat) (v : Byte) :
    (s.setStage i v).busy = s.busy := rfl

@[simp] theorem State.setStage_drq (s : State) (i : Nat) (v : Byte) :
    (s.setStage i v).drq = s.drq := rfl

@[simp] theorem State.setStage_irq (s : State) (i : Nat) (v : Byte) :
    (s.setStage i v).irq = s.irq := rfl

@[simp] theorem State.setStage_err (s : State) (i : Nat) (v : Byte) :
    (s.setStage i v).err = s.err := rfl

@[simp] theorem State.setStage_act (s : State) (i : Nat) (v : Byte) :
    (s.setStage i v).act = s.act := rfl

@[simp] theorem State.setStage_xoff (s : State) (i : Nat) (v : Byte) :
    (s.setStage i v).xoff = s.xoff := rfl

@[simp] theorem State.setStage_xcnt (s : State) (i : Nat) (v : Byte) :
    (s.setStage i v).xcnt = s.xcnt := rfl

@[simp] theorem State.setStage_stage (s : State) (i : Nat) (v : Byte) :
    (s.setStage i v).stage = s.stage.set i v := rfl

@[simp] theorem State.setStage_sdir (s : State) (i : Nat) (v : Byte) :
    (s.setStage i v).sdir = s.sdir := rfl

@[simp] theorem State.setStage_sel (s : State) (i : Nat) (v : Byte) :
    (s.setStage i v).sel = s.sel := rfl

@[simp] theorem State.setStage_dens (s : State) (i : Nat) (v : Byte) :
    (s.setStage i v).dens = s.dens := rfl

@[simp] theorem State.setStage_heads (s : State) (i : Nat) (v : Byte) :
    (s.setStage i v).heads = s.heads := rfl

@[simp] theorem State.setStage_imgs (s : State) (i : Nat) (v : Byte) :
    (s.setStage i v).imgs = s.imgs := rfl

@[simp] theorem State.setStage_busOut (s : State) (i : Nat) (v : Byte) :
    (s.setStage i v).busOut = s.busOut := rfl

@[simp] theorem State.setStage_draws (s : State) (i : Nat) (v : Byte) :
    (s.setStage i v).draws = s.draws := rfl

@[simp] theorem State.setStage_script (s : State) (i : Nat) (v : Byte) :
    (s.setStage i v).script = s.script := rfl

/-! `State.fillStage` -/

@[simp] theorem State.fillStage_cr (s : State) (vs : List Byte) :
    (s.fillStage vs).cr = s.cr := rfl

@[simp] theorem State.fillStage_tr (s : State) (vs : List Byte) :
    (s.fillStage vs).tr = s.tr := rfl

@[simp] theorem State.fillStage_sr (s : State) (vs : List Byte) :
    (s.fillStage vs).sr = s.sr := rfl

@[simp] theorem State.fillStage_dr (s : State) (vs : List Byte) :
    (s.fillStage vs).dr = s.dr := rfl

@[simp] theorem State.fillStage_busy (s : State) (vs : List Byte) :
    (s.fillStage vs).busy = s.busy := rfl

@[simp] theorem State.fillStage_drq (s : State) (vs : List Byte) :
    (s.fillStage vs).drq = s.drq := rfl

@[simp] theorem State.fillStage_irq (s : State) (vs : List Byte) :
    (s.fillStage vs).irq = s.irq := rfl

@[simp] theorem State.fillStage_err (s : State) (vs : List Byte) :
    (s.fillStage vs).err = s.err := rfl

@[simp] theorem State.fillStage_act (s : State) (vs : List Byte) :
    (s.fillStage vs).act = s.act := rfl

@[simp] theorem State.fillStage_xoff (s : State) (vs : List Byte) :
    (s.fillStage vs).xoff = s.xoff := rfl

@[simp] theorem State.fillStage_xcnt (s : State) (vs : List Byte) :
    (s.fillStage vs).xcnt = s.xcnt := rfl

@[simp] theorem State.fillStage_stage (s : State) (vs : List Byte) :
    (s.fillStage vs).stage = vs ++ s.stage.drop vs.length := rfl

@[simp] theorem State.fillStage_sdir (s : State) (vs : List Byte) :
    (s.fillStage vs).sdir = s.sdir := rfl

@[simp] theorem State.fillStage_sel (s : State) (vs : List Byte) :
    (s.fillStage vs).sel = s.sel := rfl

@[simp] theorem State.fillStage_dens (s : State) (vs : List Byte) :
    (s.fillStage vs).dens = s.dens := rfl

@[simp] theorem State.fillStage_heads (s : State) (vs : List Byte) :
    (s.fillStage vs).heads = s.heads := rfl

@[simp] theorem State.fillStage_imgs (s : State) (vs : List Byte) :
    (s.fillStage vs).imgs = s.imgs := rfl

@[simp] theorem State.fillStage_busOut (s : State) (vs : List Byte) :
    (s.fillStage vs).busOut = s.busOut := rfl

@[simp] theorem State.fillStage_draws (s : State) (vs : List Byte) :
    (s.fillStage vs).draws = s.draws := rfl

@[simp] theorem State.fillStage_script (s : State) (vs : List Byte) :
    (s.fillStage vs).script = s.script := rfl

/-! `State.deliver` -/

@[simp] theorem State.deliver_cr (s : State) (v : Byte) :
    (s.deliver v).cr = s.cr := rfl

@[simp] theorem State.deliver_tr (s : State) (v : Byte) :
    (s.deliver v).tr = s.tr := rfl

@[simp] theorem State.deliver_sr (s : State) (v : Byte) :
    (s.deliver v).sr = s.sr := rfl

@[simp] theorem State.deliver_dr (s : State) (v : Byte) :
    (s.deliver v).dr = s.dr := rfl

@[simp] theorem State.deliver_busy (s : State) (v : Byte) :
    (s.deliver v).busy = s.busy := rfl

@[simp] theorem State.deliver_drq (s : State) (v : Byte) :
    (s.deliver v).drq = s.drq := rfl

@[simp] theorem State.deliver_irq (s : State) (v : Byte) :
    (s.deliver v).irq = s.irq := rfl

@[simp] theorem State.deliver_err (s : State) (v : Byte) :
    (s.deliver v).err = s.err := rfl

@[simp] theorem State.deliver_act (s : State) (v : Byte) :
    (s.deliver v).act = s.act := rfl

@[simp] theorem State.deliver_xoff (s : State) (v : Byte) :
    (s.deliver v).xoff = s.xoff := rfl

@[simp] theorem State.deliver_xcnt (s : State) (v : Byte) :
    (s.deliver v).xcnt = s.xcnt := rfl

@[simp] theorem State.deliver_stage (s : State) (v : Byte) :
    (s.deliver v).stage = s.stage := rfl

@[simp] theorem State.deliver_sdir (s : State) (v : Byte) :
    (s.deliver v).sdir = s.sdir := rfl

@[simp] theorem State.deliver_sel (s : State) (v : Byte) :
    (s.deliver v).sel = s.sel := rfl

@[simp] theorem State.deliver_dens (s : State) (v : Byte) :
    (s.deliver v).dens = s.dens := rfl

@[simp] theorem State.deliver_heads (s : State) (v : Byte) :
    (s.deliver v).heads = s.heads := rfl

@[simp] theorem State.deliver_imgs (s : State) (v : Byte) :
    (s.deliver v).imgs = s.imgs := rfl

@[simp] theorem State.deliver_busOut (s : State) (v : Byte) :
    (s.deliver v).busOut = some v := rfl

@[simp] theorem State.deliver_draws (s : State) (v : Byte) :
    (s.deliver v).draws = s.draws := rfl

@[simp] theorem State.deliver_script (s : State) (v : Byte) :
    (s.deliver v).script = s.script := rfl

/-! `State.accept` -/

@[simp] theorem State.accept_cr (s : State) (c : Byte) :
    (s.accept c).cr = c := rfl

@[simp] theorem State.accept_tr (s : State) (c : Byte) :
    (s.accept c).tr = s.tr := rfl

@[simp] theorem State.accept_sr (s : State) (c : Byte) :
    (s.accept c).sr = s.sr := rfl

@[simp] theorem State.accept_dr (s : State) (c : Byte) :
    (s.accept c).dr = s.dr := rfl

@[simp] theorem State.accept_busy (s : State) (c : Byte) :
    (s.accept c).busy = true := rfl

@[simp] theorem State.accept_drq (s : State) (c : Byte) :
    (s.accept c).drq = s.drq := rfl

@[simp] theorem State.accept_irq (s : State) (c : Byte) :
    (s.accept c).irq = false := rfl

@[simp] theorem State.accept_err (s : State) (c : Byte) :
    (s.accept c).err = none := rfl

@[simp] theorem State.accept_act (s : State) (c : Byte) :
    (s.accept c).act = s.act := rfl

@[simp] theorem State.accept_xoff (s : State) (c : Byte) :
    (s.accept c).xoff = s.xoff := rfl

@[simp] theorem State.accept_xcnt (s : State) (c : Byte) :
    (s.accept c).xcnt = s.xcnt := rfl

@[simp] theorem State.accept_stage (s : State) (c : Byte) :
    (s.accept c).stage = s.stage := rfl

@[simp] theorem State.accept_sdir (s : State) (c : Byte) :
    (s.accept c).sdir = s.sdir := rfl

@[simp] theorem State.accept_sel (s : State) (c : Byte) :
    (s.accept c).sel = s.sel := rfl

@[simp] theorem State.accept_dens (s : State) (c : Byte) :
    (s.accept c).dens = s.dens := rfl

@[simp] theorem State.accept_heads (s : State) (c : Byte) :
    (s.accept c).heads = s.heads := rfl

@[simp] theorem State.accept_imgs (s : State) (c : Byte) :
    (s.accept c).imgs = s.imgs := rfl

@[simp] theorem State.accept_busOut (s : State) (c : Byte) :
    (s.accept c).busOut = s.busOut := rfl

@[simp] theorem State.accept_draws (s : State) (c : Byte) :
    (s.accept c).draws = s.draws := rfl

@[simp] theorem State.accept_script (s : State) (c : Byte) :
    (s.accept c).script = s.script := rfl

/-! `State.idle` -/

@[simp] theorem State.idle_cr (s : State) :
    (s.idle).cr = s.cr := rfl

@[simp] theorem State.idle_tr (s : State) :
    (s.idle).tr = s.tr := rfl

@[simp] theorem State.idle_sr (s : State) :
    (s.idle).sr = s.sr := rfl

@[simp] theorem State.idle_dr (s : State) :
    (s.idle).dr = s.dr := rfl

@[simp] theorem State.idle_busy (s : State) :
    (s.idle).busy = false := rfl

@[simp] theorem State.idle_drq (s : State) :
    (s.idle).drq = false := rfl

@[simp] theorem State.idle_irq (s : State) :
    (s.idle).irq = s.irq := rfl

@[simp] theorem State.idle_err (s : State) :
    (s.idle).err = s.err := rfl

@[simp] theorem State.idle_act (s : State) :
    (s.idle).act = Act.none := rfl

@[simp] theorem State.idle_xoff (s : State) :
    (s.idle).xoff = 0 := rfl

@[simp] theorem State.idle_xcnt (s : State) :
    (s.idle).xcnt = 0 := rfl

@[simp] theorem State.idle_stage (s : State) :
    (s.idle).stage = s.stage := rfl

@[simp] theorem State.idle_sdir (s : State) :
    (s.idle).sdir = s.sdir := rfl

@[simp] theorem State.idle_sel (s : State) :
    (s.idle).sel = s.sel := rfl

@[simp] theorem State.idle_dens (s : State) :
    (s.idle).dens = s.dens := rfl

@[simp] theorem State.idle_heads (s : State) :
    (s.idle).heads = s.heads := rfl

@[simp] theorem State.idle_imgs (s : State) :
    (s.idle).imgs = s.imgs := rfl

@[simp] theorem State.idle_busOut (s : State) :
    (s.idle).busOut = s.busOut := rfl

@[simp] theorem State.idle_draws (s : State) :
    (s.idle).draws = s.draws := rfl

@[simp] theorem State.idle_script (s : State) :
    (s.idle).script = s.script := rfl

/-! `State.terminate` -/

@[simp] theorem State.terminate_cr (s : State) :
    (s.terminate).cr = s.cr := rfl

@[simp] theorem State.terminate_tr (s : State) :
    (s.terminate).tr = s.tr := rfl

@[simp] theorem State.terminate_sr (s : State) :
    (s.terminate).sr = s.sr := rfl

@[simp] theorem State.terminate_dr (s : State) :
    (s.terminate).dr = s.dr := rfl

@[simp] theorem State.terminate_busy (s : State) :
    (s.terminate).busy = false := rfl

@[simp] theorem State.terminate_drq (s : State) :
    (s.terminate).drq = false := rfl

@[simp] theorem State.terminate_irq (s : State) :
    (s.terminate).irq = true := rfl

@[simp] theorem State.terminate_err (s : State) :
    (s.terminate).err = s.err := rfl

@[simp] theorem State.terminate_act (s : State) :
    (s.terminate).act = Act.none := rfl

@[simp] theorem State.terminate_xoff (s : State) :
    (s.terminate).xoff = 0 := rfl

@[simp] theorem State.terminate_xcnt (s : State) :
    (s.terminate).xcnt = 0 := rfl

@[simp] theorem State.terminate_stage (s : State) :
    (s.terminate).stage = s.stage := rfl

@[simp] theorem State.terminate_sdir (s : State) :
    (s.terminate).sdir = s.sdir := rfl

@[simp] theorem State.terminate_sel (s : State) :
    (s.terminate).sel = s.sel := rfl

@[simp] theorem State.terminate_dens (s : State) :
    (s.terminate).dens = s.dens := rfl

@[simp] theorem State.terminate_heads (s : State) :
    (s.terminate).heads = s.heads := rfl

@[simp] theorem State.terminate_imgs (s : State) :
    (s.terminate).imgs = s.imgs := rfl

@[simp] theorem State.terminate_busOut (s : State) :
    (s.terminate).busOut = s.busOut := rfl

@[simp] theorem State.terminate_draws (s : State) :
    (s.terminate).draws = s.draws := rfl

@[simp] theorem State.terminate_script (s : State) :
    (s.terminate).script = s.script := rfl

/-! `State.raise` -/

@[simp] theorem State.raise_cr (s : State) (f : ControllerFault) :
    (s.raise f).cr = s.cr := rfl

@[simp] theorem State.raise_tr (s : State) (f : ControllerFault) :
    (s.raise f).tr = s.tr := rfl

@[simp] theorem State.raise_sr (s : State) (f : ControllerFault) :
    (s.raise f).sr = s.sr := rfl

@[simp] theorem State.raise_dr (s : State) (f : ControllerFault) :
    (s.raise f).dr = s.dr := rfl

@[simp] theorem State.raise_busy (s : State) (f : ControllerFault) :
    (s.raise f).busy = false := rfl

@[simp] theorem State.raise_drq (s : State) (f : ControllerFault) :
    (s.raise f).drq = false := rfl

@[simp] theorem State.raise_irq (s : State) (f : ControllerFault) :
    (s.raise f).irq = true := rfl

@[simp] theorem State.raise_err (s : State) (f : ControllerFault) :
    (s.raise f).err = some f := rfl

@[simp] theorem State.raise_act (s : State) (f : ControllerFault) :
    (s.raise f).act = Act.none := rfl

@[simp] theorem State.raise_xoff (s : State) (f : ControllerFault) :
    (s.raise f).xoff = 0 := rfl

@[simp] theorem State.raise_xcnt (s : State) (f : ControllerFault) :
    (s.raise f).xcnt = 0 := rfl

@[simp] theorem State.raise_stage (s : State) (f : ControllerFault) :
    (s.raise f).stage = s.stage := rfl

@[simp] theorem State.raise_sdir (s : State) (f : ControllerFault) :
    (s.raise f).sdir = s.sdir := rfl

@[simp] theorem State.raise_sel (s : State) (f : ControllerFault) :
    (s.raise f).sel = s.sel := rfl

@[simp] theorem State.raise_dens (s : State) (f : ControllerFault) :
    (s.raise f).dens = s.dens := rfl

@[simp] theorem State.raise_heads (s : State) (f : ControllerFault) :
    (s.raise f).heads = s.heads := rfl

@[simp] theorem State.raise_imgs (s : State) (f : ControllerFault) :
    (s.raise f).imgs = s.imgs := rfl

@[simp] theorem State.raise_busOut (s : State) (f : ControllerFault) :
    (s.raise f).busOut = s.busOut := rfl

@[simp] theorem State.raise_draws (s : State) (f : ControllerFault) :
    (s.raise f).draws = s.draws := rfl

@[simp] theorem State.raise_script (s : State) (f : ControllerFault) :
    (s.raise f).script = s.script := rfl

/-! `State.arm` -/

@[simp] theorem State.arm_cr (s : State) (a : Act) (n : Nat) :
    (s.arm a n).cr = s.cr := rfl

@[simp] theorem State.arm_tr (s : State) (a : Act) (n : Nat) :
    (s.arm a n).tr = s.tr := rfl

@[simp] theorem State.arm_sr (s : State) (a : Act) (n : Nat) :
    (s.arm a n).sr = s.sr := rfl

@[simp] theorem State.arm_dr (s : State) (a : Act) (n : Nat) :
    (s.arm a n).dr = s.dr := rfl

@[simp] theorem State.arm_busy (s : State) (a : Act) (n : Nat) :
    (s.arm a n).busy = true := rfl

@[simp] theorem State.arm_drq (s : State) (a : Act) (n : Nat) :
    (s.arm a n).drq = true := rfl

@[simp] theorem State.arm_irq (s : State) (a : Act) (n : Nat) :
    (s.arm a n).irq = s.irq := rfl

@[simp] theorem State.arm_err (s : State) (a : Act) (n : Nat) :
    (s.arm a n).err = s.err := rfl

@[simp] theorem State.arm_act (s : State) (a : Act) (n : Nat) :
    (s.arm a n).act = a := rfl

@[simp] theorem State.arm_xoff (s : State) (a : Act) (n : Nat) :
    (s.arm a n).xoff = 0 := rfl

@[simp] theorem State.arm_xcnt (s : State) (a : Act) (n : Nat) :
    (s.arm a n).xcnt = n := rfl

@[simp] theorem State.arm_stage (s : State) (a : Act) (n : Nat) :
    (s.arm a n).stage = s.stage := rfl

@[simp] theorem State.arm_sdir (s : State) (a : Act) (n : Nat) :
    (s.arm a n).sdir = s.sdir := rfl

@[simp] theorem State.arm_sel (s : State) (a : Act) (n : Nat) :
    (s.arm a n).sel = s.sel := rfl

@[simp] theorem State.arm_dens (s : State) (a : Act) (n : Nat) :
    (s.arm a n).dens = s.dens := rfl

@[simp] theorem State.arm_heads (s : State) (a : Act) (n : Nat) :
    (s.arm a n).heads = s.heads := rfl

@[simp] theorem State.arm_imgs (s : State) (a : Act) (n : Nat) :
    (s.arm a n).imgs = s.imgs := rfl

@[simp] theorem State.arm_busOut (s : State) (a : Act) (n : Nat) :
    (s.arm a n).busOut = s.busOut := rfl

@[simp] theorem State.arm_draws (s : State) (a : Act) (n : Nat) :
    (s.arm a n).draws = s.draws := rfl

@[simp] theorem State.arm_script (s : State) (a : Act) (n : Nat) :
    (s.arm a n).script = s.script := rfl

/-! `State.begin` -/

@[simp] theorem State.begin_cr (s : State) (rest : List Input) :
    (s.begin rest).cr = s.cr := rfl

@[simp] theorem State.begin_tr (s : State) (rest : List Input) :
    (s.begin rest).tr = s.tr := rfl

@[simp] theorem State.begin_sr (s : State) (rest : List Input) :
    (s.begin rest).sr = s.sr := rfl

@[simp] theorem State.begin_dr (s : State) (rest : List Input) :
    (s.begin rest).dr = s.dr := rfl

@[simp] theorem State.begin_busy (s : State) (rest : List Input) :
    (s.begin rest).busy = s.busy := rfl

@[simp] theorem State.begin_drq (s : State) (rest : List Input) :
    (s.begin rest).drq = s.drq := rfl

@[simp] theorem State.begin_irq (s : State) (rest : List Input) :
    (s.begin rest).irq = s.irq := rfl

@[simp] theorem State.begin_err (s : State) (rest : List Input) :
    (s.begin rest).err = s.err := rfl

@[simp] theorem State.begin_act (s : State) (rest : List Input) :
    (s.begin rest).act = s.act := rfl

@[simp] theorem State.begin_xoff (s : State) (rest : List Input) :
    (s.begin rest).xoff = s.xoff := rfl

@[simp] theorem State.begin_xcnt (s : State) (rest : List Input) :
    (s.begin rest).xcnt = s.xcnt := rfl

@[simp] theorem State.begin_stage (s : State) (rest : List Input) :
    (s.begin rest).stage = s.stage := rfl

@[simp] theorem State.begin_sdir (s : State) (rest : List Input) :
    (s.begin rest).sdir = s.sdir := rfl

@[simp] theorem State.begin_sel (s : State) (rest : List Input) :
    (s.begin rest).sel = s.sel := rfl

@[simp] theorem State.begin_dens (s : State) (rest : List Input) :
    (s.begin rest).dens = s.dens := rfl

@[simp] theorem State.begin_heads (s : State) (rest : List Input) :
    (s.begin rest).heads = s.heads := rfl

@[simp] theorem State.begin_imgs (s : State) (rest : List Input) :
    (s.begin rest).imgs = s.imgs := rfl

@[simp] theorem State.begin_busOut (s : State) (rest : List Input) :
    (s.begin rest).busOut = none := rfl

@[simp] theorem State.begin_draws (s : State) (rest : List Input) :
    (s.begin rest).draws = s.draws := rfl

@[simp] theorem State.begin_script (s : State) (rest : List Input) :
    (s.begin rest).script = rest := rfl

/-! Reading a unit's image and head after an update. -/

theorem State.img_setImg (s : State) (u v : Drive) (x : Option Image) :
    (s.setImg u x).img v = if v = u then x else s.img v := PerDrive.get_set _ _ _ _

theorem State.head_setHead (s : State) (u v : Drive) (t : Byte) :
    (s.setHead u t).head v = if v = u then t else s.head v := PerDrive.get_set _ _ _ _

end Sys2Proof.Machine
end

