-- ==== Sys2Proof/Laws/Ops.lean ====
section
/-! SUPPORT. One lemma per shared operation that says what it does, for proofs to cite instead of unfolding it. -/

namespace Sys2Proof.Machine

/-! Steps -/

/-- With an input at the head of the script a step runs it. -/
theorem step_of_script {s : State} {inp : Input} {rest : List Input} (h : s.script = inp :: rest) :
    step s = runInput inp (s.begin rest) := by simp [step, runNext, h]

/-- With no input a step changes nothing. -/
theorem step_of_empty {s : State} (h : s.script = []) : step s = .next s := by simp [step, runNext, h]

/-- A step that answers a next state had no input, or ran the first. -/
theorem step_cases {s t : State} (h : step s = .next t) :
    (s.script = [] ∧ t = s) ∨ ∃ inp rest, s.script = inp :: rest ∧ runInput inp (s.begin rest) = .next t := by
  cases hs : s.script with
  | nil => rw [step_of_empty hs] at h; exact .inl ⟨rfl, by simpa using h.symm⟩
  | cons inp rest => rw [step_of_script hs] at h; exact .inr ⟨inp, rest, rfl, h⟩

/-- A frame that is run was decoded. -/
theorem runInput_bus {f : List Byte} {s t : State} (h : runInput (.bus f) s = .next t) :
    ∃ i, decode f = .ok i ∧ exec i s = .next t := by
  unfold runInput at h
  cases hd : decode f with
  | ok i => exact ⟨i, rfl, by simpa [hd] using h⟩
  | error e => simp [hd] at h

/-! Command writes -/

theorem commandWrite_busy {s : State} (h : s.busy = true) (c : Byte) (body : State → State) :
    commandWrite c body s = .next s := by simp [commandWrite, h]

theorem commandWrite_idle {s : State} (h : s.busy = false) (c : Byte) (body : State → State) :
    commandWrite c body s = .next (body (s.accept c)) := by simp [commandWrite, h]

/-- A command write answers the same state, rejected, or the state its body gives, accepted. -/
theorem commandWrite_cases {s t : State} {c : Byte} {body : State → State} (h : commandWrite c body s = .next t) :
    (s.busy = true ∧ t = s) ∨ (s.busy = false ∧ t = body (s.accept c)) := by
  cases hb : s.busy
  · rw [commandWrite_idle hb] at h; exact .inr ⟨rfl, by simpa using h.symm⟩
  · rw [commandWrite_busy hb] at h; exact .inl ⟨rfl, by simpa using h.symm⟩

/-! Images and their bytes -/

theorem State.sameBytes_of_imgs {s t : State} (h : t.imgs = s.imgs) : s.SameBytes t := by
  intro u a; simp only [State.byteAt, State.img, h]

theorem State.SameBytes.trans {s t z : State} (h : s.SameBytes t) (k : t.SameBytes z) : s.SameBytes z :=
  fun u a => (k u a).trans (h u a)

theorem State.byteAt_of_img {s : State} {u : Drive} {im : Image} (h : s.img u = some im) (a : Nat) :
    s.byteAt u a = if a < im.size then some (im.bytes.read a) else none := by
  simp only [State.byteAt, h]

/-- A unit's bytes after another unit's image is set are as before. -/
theorem State.byteAt_setImg_other (s : State) {u v : Drive} (x : Option Image) (h : v ≠ u) (a : Nat) :
    (s.setImg u x).byteAt v a = s.byteAt v a := by
  simp only [State.byteAt, State.img_setImg, if_neg h]

@[simp] theorem Image.size_write (im : Image) (a : Nat) (vs : List Byte) : (im.write a vs).size = im.size := rfl

/-- The size of an image of the one geometry (R5). -/
theorem Image.size_of_geometry {im : Image} (h1 : im.secSize = 1024) (h2 : im.secCount = 5) (h3 : im.trackCount = 40) :
    im.size = 204800 := by
  rw [Image.size, h1, h2, h3]

theorem geometryFor_eq_some {n : Nat} {g : Geometry} :
    geometryFor n = some g ↔ n = 204800 ∧ g = ⟨204800, 1024, 5, 40⟩ := by
  unfold geometryFor Config.geometryTable
  simp only [List.find?_cons, List.find?_nil]
  split
  · next h => simp only [beq_iff_eq] at h; subst h; simp [eq_comm]
  · next h => simp only [beq_eq_false_iff_ne] at h; simp [Ne.symm h]

/-- An attach that answers a next state found the unit empty, and changed nothing, or that unit's image and head alone. -/
theorem hostAttach_cases {u : Drive} {file : List Run} {s t : State} (h : hostAttach u file s = .next t) :
    s.img u = none ∧ (fileSize file ≠ 204800 ∧ t = s ∨ fileSize file = 204800 ∧
      t = (s.setImg u (some (Image.ofFile ⟨204800, 1024, 5, 40⟩ file))).setHead u (clampHead (s.head u) 40)) := by
  unfold hostAttach at h
  cases hi : s.img u with
  | some im => simp [hi] at h
  | none =>
    refine ⟨rfl, ?_⟩
    cases hg : geometryFor (fileSize file) with
    | none =>
      refine .inl ⟨fun hn => ?_, by simpa [hi, hg] using h.symm⟩
      rw [geometryFor_eq_some.mpr ⟨hn, rfl⟩] at hg
      cases hg
    | some g =>
      obtain ⟨hn, rfl⟩ := geometryFor_eq_some.mp hg
      exact .inr ⟨hn, by simpa [hi, hg] using h.symm⟩

/-- An attached file is an image as R40 has it. -/
theorem Image.ofFile_ok {g : Geometry} {file : List Run} (h : geometryFor (fileSize file) = some g) :
    (Image.ofFile g file).ok = true := by
  obtain ⟨hn, rfl⟩ := geometryFor_eq_some.mp h
  simp only [Image.ok, Bool.and_eq_true, List.all_eq_true, decide_eq_true_eq]
  refine ⟨⟨by simp [Config.geometryTable, Image.hasGeometry, Image.ofFile], fileMemory_wf file⟩, fun c hc => ?_⟩
  rw [Image.size_of_geometry rfl rfl rfl]
  have := (mem_fileMemory hc).2.1
  omega

/-! The selected image and the sector check -/

theorem State.selImage_eq_none_iff (s : State) :
    s.selImage = none ↔ ∀ u, s.sel = some u → s.img u = none := by
  unfold State.selImage
  cases h : s.sel <;> simp

theorem State.selImage_eq_some_iff (s : State) (im : Image) :
    s.selImage = some im ↔ ∃ u, s.sel = some u ∧ s.img u = some im := by
  unfold State.selImage
  cases h : s.sel <;> simp

theorem Image.hasSector_iff (im : Image) (t n : Nat) :
    im.hasSector t n = true ↔ t < im.trackCount ∧ 1 ≤ n ∧ n ≤ im.secCount := by
  simp [Image.hasSector, and_assoc]

theorem State.checkSector_absent {s : State} {u : Option Drive} (h : ∀ d, u = some d → s.img d = none) (t n : Nat) :
    s.checkSector u t n = .error .driveNotReady := by
  unfold State.checkSector
  cases u with
  | none => rfl
  | some d => simp [h d rfl]

theorem State.checkSector_invalid {s : State} {d : Drive} {im : Image} (h : s.img d = some im) {t n : Nat}
    (k : im.hasSector t n = false) : s.checkSector (some d) t n = .error .recordNotFound := by
  simp [State.checkSector, h, k]

theorem State.checkSector_valid {s : State} {d : Drive} {im : Image} (h : s.img d = some im) {t n : Nat}
    (k : im.hasSector t n = true) : s.checkSector (some d) t n = .ok (d, im) := by
  simp [State.checkSector, h, k]

/-- What the check can answer. -/
theorem State.checkSector_cases (s : State) (u : Option Drive) (t n : Nat) :
    ((∀ d, u = some d → s.img d = none) ∧ s.checkSector u t n = .error .driveNotReady) ∨
    (∃ d im, u = some d ∧ s.img d = some im ∧ im.hasSector t n = false ∧
      s.checkSector u t n = .error .recordNotFound) ∨
    (∃ d im, u = some d ∧ s.img d = some im ∧ im.hasSector t n = true ∧ s.checkSector u t n = .ok (d, im)) := by
  cases u with
  | none => exact .inl ⟨by simp, rfl⟩
  | some d =>
    cases h : s.img d with
    | none => exact .inl ⟨by simpa using h, State.checkSector_absent (by simpa using h) t n⟩
    | some im =>
      cases k : im.hasSector t n
      · exact .inr (.inl ⟨d, im, rfl, h, k, State.checkSector_invalid h k⟩)
      · exact .inr (.inr ⟨d, im, rfl, h, k, State.checkSector_valid h k⟩)

/-- A valid sector lies within its image. -/
theorem Image.lin_add_le_size {im : Image} {t n : Nat} (h : im.hasSector t n = true) :
    im.lin t n + im.secSize ≤ im.size := by
  obtain ⟨ht, h1, hn⟩ := (im.hasSector_iff t n).mp h
  have row : t * im.secCount + (n - 1) + 1 ≤ im.secCount * im.trackCount := by
    have := Nat.mul_le_mul_right im.secCount (Nat.succ_le_of_lt ht)
    rw [Nat.succ_mul, Nat.mul_comm im.trackCount] at this
    omega
  have := Nat.mul_le_mul_right im.secSize row
  rw [Nat.succ_mul] at this
  rw [Image.size, Nat.mul_assoc, Nat.mul_comm im.secSize]
  exact this

/-! Arming (R163, R164): each ends in one of three ways. -/

theorem armSectorRead_absent {s : State} (h : ∀ d, s.sel = some d → s.img d = none) (m : Bool) :
    armSectorRead m s = s.raise .driveNotReady := by
  simp [armSectorRead, State.readSector, State.checkSector_absent h]

theorem armSectorRead_invalid {s : State} {d : Drive} {im : Image} (hs : s.sel = some d) (h : s.img d = some im)
    (k : im.hasSector s.tr.toNat s.sr.toNat = false) (m : Bool) : armSectorRead m s = s.raise .recordNotFound := by
  simp [armSectorRead, State.readSector, hs, State.checkSector_invalid h k]

theorem armSectorRead_valid {s : State} {d : Drive} {im : Image} (hs : s.sel = some d) (h : s.img d = some im)
    (k : im.hasSector s.tr.toNat s.sr.toNat = true) (m : Bool) :
    armSectorRead m s =
      (s.fillStage (im.bytes.load (im.lin s.tr.toNat s.sr.toNat) im.secSize)).arm (.readSector m) im.secSize := by
  simp [armSectorRead, State.readSector, hs, State.checkSector_valid h k]

theorem armSectorWrite_absent {s : State} (h : ∀ d, s.sel = some d → s.img d = none) (m : Bool) :
    armSectorWrite m s = s.raise .driveNotReady := by
  simp [armSectorWrite, State.checkSector_absent h]

theorem armSectorWrite_invalid {s : State} {d : Drive} {im : Image} (hs : s.sel = some d) (h : s.img d = some im)
    (k : im.hasSector s.tr.toNat s.sr.toNat = false) (m : Bool) : armSectorWrite m s = s.raise .recordNotFound := by
  simp [armSectorWrite, hs, State.checkSector_invalid h k]

theorem armSectorWrite_valid {s : State} {d : Drive} {im : Image} (hs : s.sel = some d) (h : s.img d = some im)
    (k : im.hasSector s.tr.toNat s.sr.toNat = true) (m : Bool) :
    armSectorWrite m s = s.arm (.writeSector m) im.secSize := by
  simp [armSectorWrite, hs, State.checkSector_valid h k]

/-- `ArmSectorRead` faults, or arms a transfer of the selected image's sector size with the sector staged. -/
theorem armSectorRead_cases (m : Bool) (s : State) :
    (∃ f, armSectorRead m s = s.raise f) ∨
    ∃ d im, s.sel = some d ∧ s.img d = some im ∧ im.hasSector s.tr.toNat s.sr.toNat = true ∧ armSectorRead m s =
      (s.fillStage (im.bytes.load (im.lin s.tr.toNat s.sr.toNat) im.secSize)).arm (.readSector m) im.secSize := by
  rcases s.checkSector_cases s.sel s.tr.toNat s.sr.toNat with ⟨h, -⟩ | ⟨d, im, hs, h, k, -⟩ | ⟨d, im, hs, h, k, -⟩
  · exact .inl ⟨_, armSectorRead_absent h m⟩
  · exact .inl ⟨_, armSectorRead_invalid hs h k m⟩
  · exact .inr ⟨d, im, hs, h, k, armSectorRead_valid hs h k m⟩

/-- `ArmSectorWrite` faults, or arms a transfer of the selected image's sector size. -/
theorem armSectorWrite_cases (m : Bool) (s : State) :
    (∃ f, armSectorWrite m s = s.raise f) ∨
    ∃ d im, s.sel = some d ∧ s.img d = some im ∧ im.hasSector s.tr.toNat s.sr.toNat = true ∧
      armSectorWrite m s = s.arm (.writeSector m) im.secSize := by
  rcases s.checkSector_cases s.sel s.tr.toNat s.sr.toNat with ⟨h, -⟩ | ⟨d, im, hs, h, k, -⟩ | ⟨d, im, hs, h, k, -⟩
  · exact .inl ⟨_, armSectorWrite_absent h m⟩
  · exact .inl ⟨_, armSectorWrite_invalid hs h k m⟩
  · exact .inr ⟨d, im, hs, h, k, armSectorWrite_valid hs h k m⟩

/-! Read Address (R180) -/

theorem readAddress_absent {s : State} (h : ∀ d, s.sel = some d → s.img d = none) :
    readAddress s = s.raise .driveNotReady := by
  unfold readAddress
  cases hs : s.sel with
  | none => rfl
  | some d => simp [h d hs]

theorem readAddress_present {s : State} {d : Drive} {im : Image} (hs : s.sel = some d) (h : s.img d = some im) :
    readAddress s =
      { (s.fillStage (s.descriptor d im)).arm .readAddress Config.raLen with draws := s.draws + 1 } := by
  simp [readAddress, hs, h]

theorem readAddress_cases (s : State) :
    (∃ f, readAddress s = s.raise f) ∨
    ∃ d im, s.sel = some d ∧ s.img d = some im ∧ readAddress s =
      { (s.fillStage (s.descriptor d im)).arm .readAddress Config.raLen with draws := s.draws + 1 } := by
  cases hi : s.selImage with
  | none => exact .inl ⟨_, readAddress_absent ((State.selImage_eq_none_iff s).mp hi)⟩
  | some im =>
    obtain ⟨d, hs, h⟩ := (State.selImage_eq_some_iff s im).mp hi
    exact .inr ⟨d, im, hs, h, readAddress_present hs h⟩

/-! The multiple-sector advance (R196, R197) -/

theorem advanceAndRearm_absent {s : State} (h : s.selImage = none) (rearm : State → State) :
    advanceAndRearm rearm s = s.raise .driveNotReady := by simp [advanceAndRearm, h]

theorem advanceAndRearm_present {s : State} {im : Image} (h : s.selImage = some im) (rearm : State → State) :
    advanceAndRearm rearm s = rearm (s.advance im.secCount) := by simp [advanceAndRearm, h]

/-- The advance changes SR and TR, to the address `NextSector` names, and nothing else. -/
theorem State.advance_eq {s : State} {n : Nat} {tr' sr' : Byte} (h : NextSector n s.tr s.sr tr' sr') :
    s.advance n = { s with tr := tr', sr := sr' } := by
  unfold NextSector at h
  unfold State.advance
  split at h <;> obtain ⟨rfl, rfl⟩ := h <;> simp_all

theorem State.advance_exists (s : State) (n : Nat) : ∃ tr' sr', s.advance n = { s with tr := tr', sr := sr' } := by
  unfold State.advance; split
  · exact ⟨_, _, rfl⟩
  · exact ⟨s.tr, _, rfl⟩

/-! The commit (R194, R68) -/

theorem State.writeSector_valid {s : State} {d : Drive} {im : Image} (h : s.img d = some im) {t n : Nat}
    (k : im.hasSector t n = true) (v : List Byte) :
    s.writeSector (some d) t n v = .ok (s.setImg d (some (im.write (im.lin t n) v))) := by
  simp [State.writeSector, State.checkSector_valid h k]

/-- A commit faults and leaves the images, or stores the staged sector into the selected image and goes on (R194). -/
theorem completeWrite_cases (s : State) :
    (∃ f, completeWrite s = s.raise f) ∨
    ∃ d im, s.sel = some d ∧ s.img d = some im ∧ im.secSize = s.xcnt ∧ im.hasSector s.tr.toNat s.sr.toNat = true ∧
      completeWrite s = afterCommit
        (s.setImg d (some (im.write (im.lin s.tr.toNat s.sr.toNat) (s.stage.take s.xcnt)))) := by
  unfold completeWrite
  cases hi : s.selImage with
  | none => exact .inl ⟨_, rfl⟩
  | some im =>
    obtain ⟨d, hs, h⟩ := (State.selImage_eq_some_iff s im).mp hi
    simp only
    split
    · next hx =>
      cases k : im.hasSector s.tr.toNat s.sr.toNat
      · simp [State.writeSector, hs, State.checkSector_invalid h k]
      · rw [hs, State.writeSector_valid h k]
        exact .inr ⟨d, im, rfl, h, hx, k, rfl⟩
    · exact .inl ⟨_, rfl⟩

/-- After a commit of an image with the bytes `v` at `a`, a byte of that image is the one stored, or as before. -/
theorem State.byteAt_commit {s : State} {d : Drive} {im : Image} (h : s.img d = some im) (a : Nat) (v : List Byte)
    (hv : a + v.length ≤ im.size) (x : Nat) :
    (s.setImg d (some (im.write a v))).byteAt d x =
      if k : a ≤ x ∧ x - a < v.length then some (v[x - a]'k.2) else s.byteAt d x := by
  rw [State.byteAt_of_img (im := im.write a v) (by simp [State.img_setImg]), State.byteAt_of_img h]
  rw [Image.size_write, show (im.write a v).bytes = im.bytes.store a v from rfl, Memory.read_store]
  by_cases k : a ≤ x ∧ x - a < v.length
  · rw [dif_pos k, dif_pos k, if_pos (by omega)]
  · rw [dif_neg k, dif_neg k]

/-! Staged bytes -/

theorem State.stageByte_eq {s : State} {i : Nat} {b : Byte} (h : s.stage[i]? = some b) : s.stageByte i = b := by
  simp [State.stageByte, List.getD_eq_getElem?_getD, h]

theorem State.readPending_iff (s : State) :
    s.readPending = true ↔ s.drq = true ∧ (s.act = .readAddress ∨ ∃ m, s.act = .readSector m) := by
  unfold State.readPending Act.toCpu
  cases s.act <;> simp

theorem State.writePending_iff (s : State) :
    s.writePending = true ↔ s.drq = true ∧ ∃ m, s.act = .writeSector m := by
  unfold State.writePending Act.fromCpu
  cases s.act <;> simp

/-- What RD_DATA answers, always: the byte moved, or DR (R190). -/
theorem execRdData_cases (s : State) :
    (s.readPending = true ∧ exec .rdData s = .next ((moveByteOut s).deliver (s.stageByte s.xoff))) ∨
    (s.readPending = false ∧ exec .rdData s = .next (s.deliver s.dr)) := by
  cases h : s.readPending
  · exact .inr ⟨rfl, by simp [exec, execRdData, h]⟩
  · exact .inl ⟨rfl, by simp [exec, execRdData, h]⟩

/-- What WR_DATA answers, always (R191). -/
theorem execWrData_cases (d : Byte) (s : State) :
    (s.writePending = true ∧ exec (.wrData d) s = .next (moveByteIn { s with dr := d })) ∨
    (s.writePending = false ∧ exec (.wrData d) s = .next { s with dr := d }) := by
  cases h : s.writePending
  · exact .inr ⟨rfl, by simp [exec, execWrData, h]⟩
  · exact .inl ⟨rfl, by simp [exec, execWrData, h]⟩

end Sys2Proof.Machine
end

