-- ==== Sys2Proof/Laws/Exec.lean ====
section
/-! SUPPORT. What the data register and a command write can change, said once over all their cases. -/

namespace Sys2Proof.Machine

/-! The multiple-sector advance, with either re-arm, keeps the selection, the heads and the images; it leaves `irq` and `err`
as they are and requests data, or faults. -/

theorem advanceAndRearm_read_frame (m : Bool) (s : State) :
    let t := advanceAndRearm (armSectorRead m) s
    t.cr = s.cr ∧ t.dr = s.dr ∧ t.sel = s.sel ∧ t.dens = s.dens ∧ t.heads = s.heads ∧ t.imgs = s.imgs ∧
      (t.irq = s.irq ∧ t.err = s.err ∧ t.drq = true ∨ t.irq = true ∧ t.err ≠ none ∧ t.busy = false ∧ t.drq = false) := by
  cases h : s.selImage with
  | none => simp [advanceAndRearm_absent h, State.raise, State.idle]
  | some im =>
    obtain ⟨a, b, e⟩ := s.advance_exists im.secCount
    rw [advanceAndRearm_present h, e]
    rcases armSectorRead_cases m { s with tr := a, sr := b } with ⟨f, h⟩ | ⟨d, im, -, -, -, h⟩ <;>
      simp [h, State.raise, State.idle, State.arm, State.fillStage]

theorem advanceAndRearm_write_frame (m : Bool) (s : State) :
    let t := advanceAndRearm (armSectorWrite m) s
    t.cr = s.cr ∧ t.dr = s.dr ∧ t.sel = s.sel ∧ t.dens = s.dens ∧ t.heads = s.heads ∧ t.imgs = s.imgs ∧
      (t.irq = s.irq ∧ t.err = s.err ∧ t.drq = true ∨ t.irq = true ∧ t.err ≠ none ∧ t.busy = false ∧ t.drq = false) := by
  cases h : s.selImage with
  | none => simp [advanceAndRearm_absent h, State.raise, State.idle]
  | some im =>
    obtain ⟨a, b, e⟩ := s.advance_exists im.secCount
    rw [advanceAndRearm_present h, e]
    rcases armSectorWrite_cases m { s with tr := a, sr := b } with ⟨f, h⟩ | ⟨d, im, -, -, -, h⟩ <;>
      simp [h, State.raise, State.idle, State.arm]

/-- The read of the last byte ends the command, or advances (R192). -/
theorem completeRead_frame (s : State) :
    let t := completeRead s
    t.cr = s.cr ∧ t.dr = s.dr ∧ t.sel = s.sel ∧ t.dens = s.dens ∧ t.heads = s.heads ∧ t.imgs = s.imgs ∧
      (t.irq = s.irq ∧ t.err = s.err ∧ t.drq = true ∨ t.irq = true ∧ t.busy = false ∧ t.drq = false) := by
  intro t
  unfold t completeRead
  split
  · obtain ⟨h1, h2, h3, h4, h5, h6, h7⟩ := advanceAndRearm_read_frame true s
    exact ⟨h1, h2, h3, h4, h5, h6, h7.imp_right fun h => ⟨h.1, h.2.2⟩⟩
  all_goals simp [State.terminate, State.idle]

/-- After a commit the command ends, or advances; no further image byte changes (R194). -/
theorem afterCommit_frame (s : State) :
    let t := afterCommit s
    t.cr = s.cr ∧ t.dr = s.dr ∧ t.sel = s.sel ∧ t.dens = s.dens ∧ t.heads = s.heads ∧ t.imgs = s.imgs ∧
      (t.irq = s.irq ∧ t.err = s.err ∧ t.drq = true ∨ t.irq = true ∧ t.busy = false ∧ t.drq = false) := by
  intro t
  unfold t afterCommit
  split
  · obtain ⟨h1, h2, h3, h4, h5, h6, h7⟩ := advanceAndRearm_write_frame true s
    exact ⟨h1, h2, h3, h4, h5, h6, h7.imp_right fun h => ⟨h.1, h.2.2⟩⟩
  all_goals simp [State.terminate, State.idle]

/-- What a positioning command keeps: everything but TR, the latch, the selected head, and what ends a command. -/
theorem stepOnce_frame (d : Dir) (t : Bool) (s : State) :
    let z := stepOnce d t s
    z.cr = s.cr ∧ z.sr = s.sr ∧ z.dr = s.dr ∧ z.sdir = s.sdir ∧ z.sel = s.sel ∧ z.dens = s.dens ∧ z.imgs = s.imgs ∧
      z.err = s.err ∧ z.irq = true ∧ z.busy = false := by
  simp only [stepOnce, State.terminate, State.idle]
  refine ⟨?_, ?_, ?_, ?_, ?_, ?_, ?_, ?_, trivial, trivial⟩ <;>
    · split <;> try rfl
      split <;> try rfl
      split <;> rfl

end Sys2Proof.Machine
end

