-- ==== Sys2Proof/Laws/PerInstr.lean ====
section
/-! SUPPORT. Statements about every instruction, one lemma per constructor. -/

namespace Sys2Proof.Laws.RowForm

/-- A row of spec/opcode_table.json: its width, and the bits under its mask. -/
structure Row where
  width : Nat
  fixed : Nat
  mask : Nat
deriving DecidableEq, Repr

/-- The rows of the eleven unused offsets, 0x4 to 0xE, differ in the offset alone. -/
def row : Instr → Row
  | .restore _ _ _ => ⟨8, 0x00, 0xF0⟩
  | .seek _ _ _ => ⟨8, 0x10, 0xF0⟩
  | .step _ _ _ _ => ⟨8, 0x20, 0xE0⟩
  | .stepIn _ _ _ _ => ⟨8, 0x40, 0xE0⟩
  | .stepOut _ _ _ _ => ⟨8, 0x60, 0xE0⟩
  | .readSector _ _ _ _ _ => ⟨8, 0x80, 0xE0⟩
  | .writeSector _ _ _ _ _ => ⟨8, 0xA0, 0xE0⟩
  | .readAddress _ _ _ _ => ⟨8, 0xC0, 0xF0⟩
  | .forceInterrupt _ _ _ _ => ⟨8, 0xD0, 0xF0⟩
  | .reservedE _ => ⟨8, 0xE0, 0xF0⟩
  | .reservedF _ => ⟨8, 0xF0, 0xF0⟩
  | .wrCommand _ => ⟨16, 0x8000, 0xFF00⟩
  | .rdStatus => ⟨16, 0x0000, 0xFFFF⟩
  | .wrTrack _ => ⟨16, 0x8100, 0xFF00⟩
  | .rdTrack => ⟨16, 0x0100, 0xFFFF⟩
  | .wrSector _ => ⟨16, 0x8200, 0xFF00⟩
  | .rdSector => ⟨16, 0x0200, 0xFFFF⟩
  | .wrData _ => ⟨16, 0x8300, 0xFF00⟩
  | .rdData => ⟨16, 0x0300, 0xFFFF⟩
  | .wrUnused off _ => ⟨16, 0x8000 + 0x100 * off.toNat, 0xFF00⟩
  | .rdUnused off => ⟨16, 0x100 * off.toNat, 0xFFFF⟩
  | .wrControl _ => ⟨16, 0x8F00, 0xFF00⟩
  | .rdId => ⟨16, 0x0F00, 0xFFFF⟩

/-- The bits of a frame, numbered as spec/opcode_table.json numbers them: the first byte lowest. -/
def frameWord : List Byte → Nat
  | [] => 0
  | b :: bs => b.toNat + 256 * frameWord bs

/-- A well-formed instruction is encoded in as many bits as its row gives, and carries the row's fixed bits. -/
def Statement (i : Instr) : Prop :=
  i.WellFormed → 8 * (encode i).length = (row i).width ∧ frameWord (encode i) &&& (row i).mask = (row i).fixed

theorem restore (h v : Bool) (r : BitVec 2) : Statement (.restore h v r) := fun _ => ⟨rfl, by decide +revert⟩

theorem seek (h v : Bool) (r : BitVec 2) : Statement (.seek h v r) := fun _ => ⟨rfl, by decide +revert⟩

theorem step (t h v : Bool) (r : BitVec 2) : Statement (.step t h v r) := fun _ => ⟨rfl, by decide +revert⟩

theorem stepIn (t h v : Bool) (r : BitVec 2) : Statement (.stepIn t h v r) := fun _ => ⟨rfl, by decide +revert⟩

theorem stepOut (t h v : Bool) (r : BitVec 2) : Statement (.stepOut t h v r) := fun _ => ⟨rfl, by decide +revert⟩

theorem readSector (m l e u x : Bool) : Statement (.readSector m l e u x) := fun _ => ⟨rfl, by decide +revert⟩

theorem writeSector (m l e u a : Bool) : Statement (.writeSector m l e u a) := fun _ => ⟨rfl, by decide +revert⟩

theorem readAddress (x3 e u x0 : Bool) : Statement (.readAddress x3 e u x0) := fun _ => ⟨rfl, by decide +revert⟩

theorem forceInterrupt (i3 i2 i1 i0 : Bool) : Statement (.forceInterrupt i3 i2 i1 i0) :=
  fun _ => ⟨rfl, by decide +revert⟩

theorem reservedE (x : BitVec 4) : Statement (.reservedE x) := fun _ => ⟨rfl, by decide +revert⟩

theorem reservedF (x : BitVec 4) : Statement (.reservedF x) := fun _ => ⟨rfl, by decide +revert⟩

theorem wrCommand (c : Byte) : Statement (.wrCommand c) := fun _ => ⟨rfl, by decide +revert⟩

theorem rdStatus : Statement .rdStatus := fun _ => ⟨rfl, rfl⟩

theorem wrTrack (d : Byte) : Statement (.wrTrack d) := fun _ => ⟨rfl, by decide +revert⟩

theorem rdTrack : Statement .rdTrack := fun _ => ⟨rfl, rfl⟩

theorem wrSector (d : Byte) : Statement (.wrSector d) := fun _ => ⟨rfl, by decide +revert⟩

theorem rdSector : Statement .rdSector := fun _ => ⟨rfl, rfl⟩

theorem wrData (d : Byte) : Statement (.wrData d) := fun _ => ⟨rfl, by decide +revert⟩

theorem rdData : Statement .rdData := fun _ => ⟨rfl, rfl⟩

/-- The fixed bits of a write, the offset any. -/
theorem write_fixed_bits (off : BitVec 4) (d : Byte) :
    frameWord (writeFrame off d) &&& 0xFF00 = 0x8000 + 0x100 * off.toNat := by
  have high : ∀ off : BitVec 4, (0b1000#4 ++ off : Byte).toNat = 128 + off.toNat := by decide
  have low : ∀ a b : Nat, a < 256 → b < 256 → (a + 256 * b) &&& 0xFF00 = 256 * b := fun a b ha hb => by
    have mask : (0xFF00 : Nat) = (2 ^ 8 - 1) <<< 8 := rfl
    apply Nat.eq_of_testBit_eq
    intro i
    rw [Nat.add_comm, show 256 * b = 2 ^ 8 * b from rfl, Nat.testBit_and, Nat.testBit_two_pow_mul_add b ha, mask,
      Nat.testBit_shiftLeft, Nat.testBit_two_pow_mul, Nat.testBit_two_pow_sub_one]
    by_cases h8 : i < 8
    · simp [show ¬ 8 ≤ i by omega]
    · have h8' : 8 ≤ i := by omega
      by_cases h16 : i - 8 < 8
      · simp [h8, h8', h16]
      · have big : 2 ^ 8 ≤ 2 ^ (i - 8) := Nat.pow_le_pow_right (by decide) (by omega)
        have : b.testBit (i - 8) = false := Nat.testBit_lt_two_pow (Nat.lt_of_lt_of_le hb big)
        simp [h8, this]
  have := off.isLt
  simp only [writeFrame, frameWord, high, Nat.mul_zero, Nat.add_zero]
  rw [low _ _ d.isLt (by omega)]
  omega

theorem wrUnused (off : BitVec 4) (d : Byte) : Statement (.wrUnused off d) := fun _ => ⟨rfl, write_fixed_bits off d⟩

theorem rdUnused (off : BitVec 4) : Statement (.rdUnused off) := fun _ => ⟨rfl, by decide +revert⟩

theorem wrControl (d : Byte) : Statement (.wrControl d) := fun _ => ⟨rfl, by decide +revert⟩

theorem rdId : Statement .rdId := fun _ => ⟨rfl, rfl⟩

end Sys2Proof.Laws.RowForm
end

