-- ==== Sys2Proof/Tests/Slice0.lean ====
section
/-! SUPPORT. Tests: well-formedness, decoding from words written out of the spec, one step on a small state with the result
the spec gives (spec/95_test_vectors.md, named V<n>), and for each statement with hypotheses a state and operands that meet
them. -/

namespace Sys2Proof.Tests

open Sys2Proof Sys2Proof.Machine

/-! ## Well-formedness (R91, R105) -/

theorem test_unused_write_below_window : (Instr.wrUnused 0x3#4 0x55#8).wellFormed = false := by decide

theorem test_unused_write_above_window : (Instr.wrUnused 0xF#4 0x55#8).wellFormed = false := by decide

theorem test_unused_write_at_zero : (Instr.wrUnused 0x0#4 0x55#8).wellFormed = false := by decide

theorem test_unused_read_below_window : (Instr.rdUnused 0x3#4).wellFormed = false := by decide

theorem test_unused_read_above_window : (Instr.rdUnused 0xF#4).wellFormed = false := by decide

/-- Hypothesis of PlainReadsReturnTheirByte, at both ends of the window. -/
theorem test_unused_read_in_window : (Instr.rdUnused 0x4#4).WellFormed ∧ (Instr.rdUnused 0xE#4).WellFormed := by decide

/-- Hypothesis of UnusedWriteChangesNothing, at both ends of the window. -/
theorem test_unused_write_in_window :
    (Instr.wrUnused 0x4#4 0x55#8).WellFormed ∧ (Instr.wrUnused 0xE#4 0x55#8).WellFormed := by decide

/-! ## Decoding: the class table R93 with the formats R94 to R97 (V41), and the words of R117 (V42) -/

theorem test_decode_restore : decode [0b00001101#8] = .ok (.restore true true 0b01#2) := by decide

theorem test_decode_seek : decode [0b00010110#8] = .ok (.seek false true 0b10#2) := by decide

theorem test_decode_step : decode [0b00101000#8] = .ok (.step false true false 0b00#2) ∧
    decode [0b00111111#8] = .ok (.step true true true 0b11#2) := by decide

theorem test_decode_step_in : decode [0b01000000#8] = .ok (.stepIn false false false 0b00#2) ∧
    decode [0b01010100#8] = .ok (.stepIn true false true 0b00#2) := by decide

theorem test_decode_step_out : decode [0b01100001#8] = .ok (.stepOut false false false 0b01#2) ∧
    decode [0b01110000#8] = .ok (.stepOut true false false 0b00#2) := by decide

theorem test_decode_read_sector : decode [0b10001000#8] = .ok (.readSector false true false false false) ∧
    decode [0b10010101#8] = .ok (.readSector true false true false true) := by decide

theorem test_decode_write_sector : decode [0b10100010#8] = .ok (.writeSector false false false true false) ∧
    decode [0b10110001#8] = .ok (.writeSector true false false false true) := by decide

theorem test_decode_read_address : decode [0b11001001#8] = .ok (.readAddress true false false true) ∧
    decode [0b11000110#8] = .ok (.readAddress false true true false) := by decide

theorem test_decode_force_interrupt : decode [0b11011000#8] = .ok (.forceInterrupt true false false false) ∧
    decode [0b11010110#8] = .ok (.forceInterrupt false true true false) := by decide

theorem test_decode_reserved : decode [0b11100101#8] = .ok (.reservedE 0b0101#4) ∧
    decode [0b11111010#8] = .ok (.reservedF 0b1010#4) := by decide

/-- The boundaries between classes that V41 lists. -/
theorem test_class_boundaries :
    [0x0F#8, 0x10#8, 0x1F#8, 0x20#8, 0x3F#8, 0x40#8, 0x5F#8, 0x60#8, 0x7F#8, 0x80#8, 0x9F#8].map commandClass =
      [.restore, .seek, .seek, .step, .step, .stepIn, .stepIn, .stepOut, .stepOut, .readSector, .readSector] ∧
    [0xA0#8, 0xBF#8, 0xC0#8, 0xCF#8, 0xD0#8, 0xDF#8, 0xE0#8, 0xEF#8, 0xF0#8, 0xFF#8].map commandClass =
      [.writeSector, .writeSector, .readAddress, .readAddress, .forceInterrupt, .forceInterrupt, .reservedE, .reservedE,
        .reservedF, .reservedF] := by decide

/-- V42: `OUT 0x0, 0x80`, `OUT 0x0, 0xD0`, `OUT 0x1, 0x27`, `OUT 0x2, 0x05`. -/
theorem test_decode_writes :
    decodeTableWord 16 0x8080 = some (.wrCommand 0x80#8) ∧ decodeTableWord 16 0x80D0 = some (.wrCommand 0xD0#8) ∧
    decodeTableWord 16 0x8127 = some (.wrTrack 0x27#8) ∧ decodeTableWord 16 0x8205 = some (.wrSector 0x05#8) := by decide

/-- V42: `OUT 0x3, 0xFF`, `OUT 0xF, 0x02`; and `OUT 0x7, 0x55` of V2. -/
theorem test_decode_writes_data_and_control :
    decodeTableWord 16 0x83FF = some (.wrData 0xFF#8) ∧ decodeTableWord 16 0x8F02 = some (.wrControl 0x02#8) ∧
    decodeTableWord 16 0x8755 = some (.wrUnused 0x7#4 0x55#8) := by decide

/-- V42: `IN 0x0`, `IN 0x1`, `IN 0x2`, `IN 0x3`, `IN 0xF`; and `IN 0x4`, `IN 0xE` of V2. -/
theorem test_decode_reads :
    decodeTableWord 16 0x0000 = some .rdStatus ∧ decodeTableWord 16 0x0100 = some .rdTrack ∧
    decodeTableWord 16 0x0200 = some .rdSector ∧ decodeTableWord 16 0x0300 = some .rdData ∧
    decodeTableWord 16 0x0F00 = some .rdId ∧ decodeTableWord 16 0x0400 = some (.rdUnused 0x4#4) ∧
    decodeTableWord 16 0x0E00 = some (.rdUnused 0xE#4) := by decide

/-- R117: bits 14:12 are 0, and the word of a read carries 0x00. -/
theorem test_decode_rejects :
    decode [] = .error .emptyFrame ∧ decode [0x00#8, 0x90#8] = .error .reservedBits ∧
    decode [0x00#8, 0x40#8] = .error .reservedBits ∧ decode [0x01#8, 0x03#8] = .error .readCarriesValue ∧
    decode [0x00#8, 0x00#8, 0x00#8] = .error .frameTooLong := by decide

/-- Hypothesis of DecodedFrameIsTheEncoding. -/
theorem test_frame_decodes : decode [0x02#8, 0x8F#8] = .ok (.wrControl 0x02#8) := by decide

/-! ## The states of the tests -/

/-- An image of the one geometry, three bytes of it not 0: PAT251 at 6144 and 6145 (V40), and its last byte. -/
def demoImage : Image where
  secSize := 1024
  secCount := 5
  trackCount := 40
  bytes := [(6144, 0x78#8), (6145, 0x79#8), (204799, 0xEA#8)]
  dirty := false

/-- The start S0 of the vectors: unit 0 holds an image and is selected, unit 1 is empty. The direction is one of the two. -/
def demo : State := { State.reset with sdir := .inward, sel := some .unit0, imgs := ⟨some demoImage, none⟩ }

/-- Reading, `n` bytes of the sector moved. -/
def demoReading (m : Bool) (n : Nat) : State :=
  { demo with cr := 0x80#8, tr := 0x01#8, sr := 0x02#8, busy := true, drq := true, act := .readSector m, xoff := n, xcnt := 1024,
              stage := 0x78#8 :: 0x79#8 :: List.replicate 1022 0x00#8 }

/-- Writing, `n` bytes of the sector staged. -/
def demoWriting (m : Bool) (n : Nat) : State := { demoReading m n with cr := 0xA0#8, act := .writeSector m }

/-- An error latched, idle. -/
def demoFailed : State := { demo with cr := 0x80#8, sr := 0x06#8, err := some .recordNotFound, irq := true }

/-- The next state, where there is one, has the property. -/
def nextHas (o : Host.Outcome State Fault Refusal) (p : State → Bool) : Bool :=
  match o with
  | .next t => p t
  | .fault _ => false
  | .refused _ => false

/-! ## One step, with the result the spec gives -/

/-- V7: Seek to 0x11 with unit 0 selected. -/
theorem test_seek : nextHas (exec (.seek false false 0#2) { demo with dr := 0x11#8 }) (fun t =>
    t.heads == ⟨0x11#8, 0x00#8⟩ && t.tr == 0x11#8 && t.sdir == .inward && t.irq && t.status == 0x00#8) = true := by decide

/-- V9: a destination beyond the last track moves the head to the last track, and TR takes all of it. -/
theorem test_seek_clamps : nextHas (exec (.seek false false 0#2) { demo with dr := 0x32#8 }) (fun t =>
    t.heads == ⟨39#8, 0x00#8⟩ && t.tr == 0x32#8 && t.status == 0x00#8) = true := by decide

/-- V7: Restore. -/
theorem test_restore : nextHas
    (exec (.restore false false 0#2) { demo with tr := 0x11#8, dr := 0x11#8, heads := ⟨0x11#8, 0x00#8⟩ }) (fun t =>
    t.heads == ⟨0x00#8, 0x00#8⟩ && t.tr == 0x00#8 && t.dr == 0x11#8 && t.sdir == .outward && t.cr == 0x00#8 &&
      t.status == 0x04#8) = true := by decide

/-- V8 (b): Restore with nothing selected moves no head and shows no track-0 bit. -/
theorem test_restore_no_unit : nextHas (exec (.restore false false 0#2) { demo with sel := none, tr := 0x09#8 }) (fun t =>
    t.tr == 0x00#8 && t.status == 0x80#8) = true := by decide

/-- V10: Step follows the latch, and without T keeps TR. -/
theorem test_step : nextHas (exec (.step false false false 0#2) { demo with tr := 0x05#8, heads := ⟨5#8, 0#8⟩, sdir := .outward })
    (fun t => t.heads == ⟨4#8, 0#8⟩ && t.tr == 0x05#8) = true := by decide

/-- V11 (b): Step-In at the last track: the head stays, TR counts on. -/
theorem test_step_in_at_bound : nextHas (exec (.stepIn true false false 0#2) { demo with tr := 0x27#8, heads := ⟨39#8, 0#8⟩ })
    (fun t => t.heads == ⟨39#8, 0#8⟩ && t.tr == 0x28#8 && t.status == 0x00#8) = true := by decide

/-- V43: with nothing selected TR wraps at 0xFF. -/
theorem test_step_in_wraps : nextHas (exec (.stepIn true false false 0#2) { demo with sel := none, tr := 0xFF#8 })
    (fun t => t.tr == 0x00#8) = true := by decide

/-- V12: Step-Out at track 0 forces TR to 0. -/
theorem test_step_out_at_zero : nextHas (exec (.stepOut false false false 0#2) { demo with tr := 0x05#8 })
    (fun t => t.heads == ⟨0#8, 0#8⟩ && t.tr == 0x00#8) = true := by decide

/-- V43: with nothing selected there is no track-0 rule. -/
theorem test_step_out_wraps : nextHas (exec (.stepOut true false false 0#2) { demo with sel := none })
    (fun t => t.tr == 0xFF#8) = true := by decide

/-- V19: Read Sector of track 1, sector 2 stages the bytes at 6144. -/
theorem test_read_sector : nextHas (exec (.readSector false false false false false) { demo with tr := 0x01#8, sr := 0x02#8 })
    (fun t => t.stageByte 0 == 0x78#8 && t.stageByte 1 == 0x79#8 && t.xcnt == 1024 && t.status == 0x05#8) = true := by decide +kernel

/-- V20: sector 6 does not exist. -/
theorem test_read_sector_not_found : nextHas (exec (.readSector false false false false false) { demo with sr := 0x06#8 })
    (fun t => t.err == some .recordNotFound && !t.busy && !t.drq && t.irq && t.status == 0x14#8) = true := by decide

/-- V22: Write Sector arms. -/
theorem test_write_sector : nextHas (exec (.writeSector false false false false false) { demo with tr := 0x01#8, sr := 0x02#8 })
    (fun t => t.xcnt == 1024 && t.status == 0x05#8 && t.imgs == demo.imgs) = true := by decide

/-- V21 (c): the selected unit is empty. -/
theorem test_write_sector_not_ready :
    nextHas (exec (.writeSector false false false false false) { demo with sel := some .unit1, sr := 0x01#8 })
      (fun t => t.err == some .driveNotReady && t.status == 0x84#8) = true := by decide

/-- V30 (a): the descriptor's first four bytes; TR, out of range, does not matter. -/
theorem test_read_address :
    nextHas (exec (.readAddress false false false false) { demo with heads := ⟨7#8, 0#8⟩, tr := 0x63#8, sr := 0x03#8 })
      (fun t => t.stage.take 4 == [0x07#8, 0x00#8, 0x03#8, 0x03#8] && t.xcnt == 6 && t.tr == 0x63#8 && t.status == 0x01#8) =
      true := by decide

/-- V33: Force Interrupt in the middle of a read. -/
theorem test_force_interrupt :
    nextHas (exec (.forceInterrupt false false false false) { demoReading false 500 with dr := 0xF8#8 })
      (fun t => !t.busy && !t.drq && t.act == .none && t.xoff == 0 && t.xcnt == 0 && !t.irq && t.cr == 0xD0#8 &&
        t.tr == 0x01#8 && t.sr == 0x02#8 && t.dr == 0xF8#8) = true := by decide

/-- V32: Force Interrupt with I3 set. -/
theorem test_force_interrupt_immediate : nextHas (exec (.forceInterrupt true false false false) demoFailed)
    (fun t => t.irq && t.err == none && t.status == 0x04#8) = true := by decide

/-- V31 (a), (d): a reserved byte is refused while idle and rejected while busy. -/
theorem test_reserved_e : exec (.reservedE 0x0#4) demo = .refused (.reservedCommand 0xE0#8) ∧
    exec (.reservedE 0x0#4) (demoReading false 0) = .next (demoReading false 0) := ⟨rfl, rfl⟩

theorem test_reserved_f : exec (.reservedF 0xF#4) demo = .refused (.reservedCommand 0xFF#8) ∧
    exec (.reservedF 0x4#4) (demoReading false 0) = .next (demoReading false 0) := ⟨rfl, rfl⟩

/-- V6: a command byte written while busy is rejected. -/
theorem test_command_rejected : exec (.wrCommand 0xA0#8) (demoReading false 0) = .next (demoReading false 0) := rfl

/-- V16: `OUT 0x0, 0x1F` is Seek with flags that have no effect, latched in CR. -/
theorem test_command_seek : nextHas (exec (.wrCommand 0x1F#8) { demo with dr := 0x09#8 })
    (fun t => t.heads == ⟨9#8, 0#8⟩ && t.tr == 0x09#8 && t.cr == 0x1F#8) = true := by decide

/-- V34: four of the values, of states built as its scripts leave them; the read clears `irq`. -/
theorem test_status_values :
    demo.status = 0x04#8 ∧ (demoReading false 0).status = 0x05#8 ∧ demoFailed.status = 0x14#8 ∧
    State.status { demoFailed with imgs := ⟨none, none⟩, heads := ⟨1#8, 0#8⟩ } = 0x90#8 := by decide

theorem test_status_read_clears_irq : nextHas (exec .rdStatus demoFailed)
    (fun t => t.busOut == some 0x14#8 && !t.irq && t.err == some .recordNotFound) = true := by decide

/-- V3, V4: the track register takes a byte while idle, none while busy. -/
theorem test_track_write : nextHas (exec (.wrTrack 0x27#8) demo) (fun t => t.tr == 0x27#8) = true ∧
    nextHas (exec (.wrTrack 0x09#8) (demoReading false 0)) (fun t => t.tr == 0x01#8) = true := by decide

theorem test_track_read : nextHas (exec .rdTrack (demoReading false 0)) (fun t => t.busOut == some 0x01#8) = true := by decide

theorem test_sector_write : nextHas (exec (.wrSector 0x06#8) demo) (fun t => t.sr == 0x06#8) = true ∧
    nextHas (exec (.wrSector 0x04#8) (demoReading false 0)) (fun t => t.sr == 0x02#8) = true := by decide

theorem test_sector_read : nextHas (exec .rdSector (demoReading false 0)) (fun t => t.busOut == some 0x02#8) = true := by decide

/-- V2. -/
theorem test_unused_offsets : nextHas (exec (.rdUnused 0x7#4) demo) (fun t => t.busOut == some 0xFF#8) = true ∧
    exec (.wrUnused 0x7#4 0x55#8) demo = .next demo := ⟨by decide, rfl⟩

/-- V5: the rows 0xFA, 0xFC, 0x06 and 0x01. -/
theorem test_control : [0xFA#8, 0xFC#8, 0x06#8, 0x01#8].map ctrlSelect = [some .unit0, some .unit1, none, none] ∧
    [0xFA#8, 0xFC#8, 0x06#8, 0x01#8].map ctrlDensity = [false, false, false, true] := by decide

theorem test_control_write : nextHas (exec (.wrControl 0x05#8) demo)
    (fun t => t.sel == some .unit1 && t.dens && t.status == 0x84#8) = true := by decide

/-- V1: the card identification. -/
theorem test_card_id : nextHas (exec .rdId demo) (fun t => t.busOut == some 0x10#8) = true := by decide

/-- V28: a read in the middle of a read transfer moves one byte; one in the middle of a write transfer returns DR. -/
theorem test_data_read : nextHas (exec .rdData (demoReading false 0))
    (fun t => t.busOut == some 0x78#8 && t.dr == 0x78#8 && t.xoff == 1 && t.busy) = true ∧
    nextHas (exec .rdData { demoWriting false 1 with dr := 0x11#8 }) (fun t => t.busOut == some 0x11#8 && t.xoff == 1) = true := by
  decide

/-- V18: the last read ends the command. V26: a multiple-sector read off the end of the disk, the last byte delivered. -/
theorem test_last_data_read : nextHas (exec .rdData (demoReading false 1023))
    (fun t => !t.busy && !t.drq && t.irq && t.xoff == 0 && t.xcnt == 0 && t.act == .none && t.tr == 0x01#8) = true ∧
    nextHas (exec .rdData { demoReading true 1023 with tr := 0x27#8, sr := 0x05#8 })
      (fun t => t.err == some .recordNotFound && !t.busy && t.irq && t.tr == 0x28#8 && t.sr == 0x01#8 &&
        t.busOut == some 0x00#8) = true := by decide +kernel

/-- V28: a write in the middle of a write transfer stages the byte; one in the middle of a read transfer only reaches DR. -/
theorem test_data_write : nextHas (exec (.wrData 0x22#8) (demoWriting false 1))
    (fun t => t.stageByte 1 == 0x22#8 && t.dr == 0x22#8 && t.xoff == 2) = true ∧
    nextHas (exec (.wrData 0xAA#8) (demoReading false 0)) (fun t => t.dr == 0xAA#8 && t.xoff == 0) = true := by decide

/-- V22, V40: the last write stores the sector at 6144 to 7167, and no other byte. -/
theorem test_last_data_write : nextHas (exec (.wrData 0xFC#8) (demoWriting false 1023)) (fun t =>
    !t.busy && t.status == 0x04#8 && t.imgs == ⟨some { demoImage with
      bytes := [(6144, 0x78#8), (6145, 0x79#8), (7167, 0xFC#8), (204799, 0xEA#8)], dirty := true }, none⟩) = true := by decide +kernel

/-- V40: the offsets of sectors, and the addresses that are none. -/
theorem test_sector_offsets :
    [(0, 1), (0, 5), (1, 1), (1, 2), (2, 3), (3, 4), (39, 5)].map (fun p => demoImage.lin p.1 p.2) =
      [0, 4096, 5120, 6144, 12288, 18432, 203776] ∧
    [(40, 1), (0, 0), (0, 6), (39, 5)].map (fun p => demoImage.hasSector p.1 p.2) = [false, false, false, true] := by decide

/-- V1: `IN 0x0` as the first transaction after reset returns 0x80. -/
theorem test_step_from_reset : nextHas (step (State.reset.withFetchWord 16 0x0000)) (fun t => t.busOut == some 0x80#8) = true := by
  decide

/-- V39: an attach on an occupied unit is refused; a file of 204799 bytes is no event. -/
theorem test_attach_occupied : step { demo with script := [.attach .unit0 [⟨204800, 0x00#8⟩]] } = .refused (.attachOccupied .unit0) :=
  rfl

theorem test_attach_wrong_size : nextHas (step { demo with script := [.attach .unit1 [⟨204799, 0x00#8⟩]] })
    (fun t => t.imgs == demo.imgs) = true := by decide

/-- V35: after a detach the unit is not ready. -/
theorem test_detach : nextHas (step { demo with script := [.detach .unit0] }) (fun t => t.status == 0x84#8) = true := by decide

/-- V39: `Init` in the middle of a transfer. -/
theorem test_init : nextHas (step { demoReading false 3 with script := [.init] })
    (fun t => !t.busy && t.sel == none && t.imgs == ⟨none, none⟩ && t.tr == 0x00#8 && t.status == 0x80#8) = true := by decide

/-! ## The hypotheses of the statements are met -/

/-- StepRunsTheDecodedInstruction; CommandWrite and the encoding statements have no more than this. -/
theorem test_witness_step : (State.reset.withFetchWord 16 0x8F02).script = [.bus [0x02#8, 0x8F#8]] ∧
    decode [0x02#8, 0x8F#8] = .ok (.wrControl 0x02#8) ∧ (Instr.wrControl 0x02#8).WellFormed := by decide

/-- StepWithoutInputChangesNothing. -/
theorem test_witness_no_input : demo.script = [] := rfl

/-- The invariant, in the middle of a transfer: StatusValueIsOneOfTwelve, EveryStepKeepsTheInvariant. -/
theorem test_witness_inv : (demoReading true 500).Inv := by
  refine ⟨?_, ?_, ?_, ?_, ?_, ?_, ?_⟩ <;> decide +kernel

theorem test_witness_inv_step :
    State.Inv { demoReading true 500 with script := [.bus [0x00#8, 0x03#8]] } ∧
    ∃ t, step { demoReading true 500 with script := [.bus [0x00#8, 0x03#8]] } = .next t := ⟨test_witness_inv, _, rfl⟩

/-- BusyRejectsEveryOtherCommand, a reserved byte included. -/
theorem test_witness_busy : (demoReading false 0).busy = true ∧ commandClass 0x00#8 ≠ .forceInterrupt ∧
    commandClass 0xFF#8 ≠ .forceInterrupt := by decide

/-- AcceptedCommandEndsIdleOrArmed: each side. -/
theorem test_witness_accepted : commandClass 0xD0#8 = .forceInterrupt ∧
    (demo.busy = false ∧ commandClass 0xC0#8 ≠ .reservedE ∧ commandClass 0xC0#8 ≠ .reservedF) := by decide

/-- IgnoredFlagBitsReachOnlyCR: pairs of each of the nine forms. -/
theorem test_witness_ignored_flags :
    (∃ h v r h' v' r', Instr.restore true false 3#2 = .restore h v r ∧ Instr.restore false true 0#2 = .restore h' v' r') ∧
    (∃ h v r h' v' r', Instr.seek true false 3#2 = .seek h v r ∧ Instr.seek false true 0#2 = .seek h' v' r') ∧
    (∃ t h v r h' v' r', Instr.step true true false 3#2 = .step t h v r ∧ Instr.step true false true 0#2 = .step t h' v' r') ∧
    (∃ t h v r h' v' r', Instr.stepIn true true false 3#2 = .stepIn t h v r ∧
      Instr.stepIn true false true 0#2 = .stepIn t h' v' r') ∧
    (∃ t h v r h' v' r', Instr.stepOut true true false 3#2 = .stepOut t h v r ∧
      Instr.stepOut true false true 0#2 = .stepOut t h' v' r') :=
  ⟨⟨_, _, _, _, _, _, rfl, rfl⟩, ⟨_, _, _, _, _, _, rfl, rfl⟩, ⟨_, _, _, _, _, _, _, rfl, rfl⟩,
    ⟨_, _, _, _, _, _, _, rfl, rfl⟩, ⟨_, _, _, _, _, _, _, rfl, rfl⟩⟩

theorem test_witness_ignored_flags_disk :
    (∃ m l e u x l' e' u' x', Instr.readSector true true true true true = .readSector m l e u x ∧
      Instr.readSector true false false false false = .readSector m l' e' u' x') ∧
    (∃ m l e u x l' e' u' x', Instr.writeSector true true true true true = .writeSector m l e u x ∧
      Instr.writeSector true false false false false = .writeSector m l' e' u' x') ∧
    (∃ a b c d a' b' c' d', Instr.readAddress true true true true = .readAddress a b c d ∧
      Instr.readAddress false false false false = .readAddress a' b' c' d') ∧
    (∃ a b c d b' c' d', Instr.forceInterrupt true true true true = .forceInterrupt a b c d ∧
      Instr.forceInterrupt true false false false = .forceInterrupt a b' c' d') :=
  ⟨⟨_, _, _, _, _, _, _, _, _, rfl, rfl⟩, ⟨_, _, _, _, _, _, _, _, _, rfl, rfl⟩, ⟨_, _, _, _, _, _, _, _, rfl, rfl⟩,
    ⟨_, _, _, _, _, _, _, rfl, rfl⟩⟩

/-- RestoreHomesTheSelectedHead, SeekGoesToTheTrackInDR. -/
theorem test_witness_idle : demo.busy = false := rfl

/-- StepFamilyMovesTheHeadByOne: each of the three instructions. -/
theorem test_witness_step_family : demo.busy = false ∧
    (Instr.step true true true 1#2 = .step true true true 1#2 ∧ Dir.inward = demo.sdir) ∧
    (Instr.stepIn true true true 1#2 = .stepIn true true true 1#2 ∧ Dir.inward = .inward) ∧
    (Instr.stepOut true true true 1#2 = .stepOut true true true 1#2 ∧ Dir.outward = .outward) := by decide

/-- ReadSectorStagesTheAddressedSector, WriteSectorArmsWithoutTouchingTheImage, ReadAddressStagesTheDescriptor: the first
sector of the disk and the last. -/
theorem test_witness_sector : demo.busy = false ∧ demo.sel = some .unit0 ∧ demo.img .unit0 = some demoImage ∧
    demoImage.Valid 0x00#8 0x01#8 ∧ demoImage.Valid 0x27#8 0x05#8 ∧ demoImage.secSize = 128 * 2 ^ 3 := by decide

/-- DiskCommandFaultsEndIdle: the three classes, and the addresses just outside the disk. -/
theorem test_witness_disk_fault : demo.busy = false ∧ encode (.readSector false false false false false) = [0x80#8] ∧
    encode (.writeSector false false false false false) = [0xA0#8] ∧ encode (.readAddress false false false false) = [0xC0#8] ∧
    commandClass 0x80#8 = .readSector ∧ commandClass 0xA0#8 = .writeSector ∧ commandClass 0xC0#8 = .readAddress ∧
    demo.sel = some .unit0 ∧ demo.img .unit0 = some demoImage ∧ ¬ demoImage.Valid demo.tr demo.sr ∧
    ¬ demoImage.Valid 0x00#8 0x06#8 ∧ ¬ demoImage.Valid 0x28#8 0x01#8 := by decide

/-- DiskCommandFaultsEndIdle, FailedCommitLosesTheSector and the like: no unit selected, and an empty one. -/
theorem test_witness_no_image :
    (∀ u, ({ demo with sel := none } : State).sel = some u → ({ demo with sel := none } : State).img u = none) ∧
    (∀ u, ({ demo with sel := some .unit1 } : State).sel = some u → ({ demo with sel := some .unit1 } : State).img u = none) := by
  refine ⟨?_, ?_⟩ <;> (intro u h; cases h; try rfl)

/-- A Read Address with the second byte moved. -/
def demoAddress : State := { demoReading false 1 with act := .readAddress, xcnt := 6 }

/-- The last byte of a transfer of two bytes. -/
def demoLast (a : Act) : State := { demoReading false 1 with act := a, xcnt := 2 }

/-- DataReadMovesOneByte: both kinds of read. -/
theorem test_witness_data_read : ((demoReading true 0).drq = true ∧ (demoReading true 0).act = .readSector true ∧
      (demoReading true 0).stage[(demoReading true 0).xoff]? = some 0x78#8 ∧
      (demoReading true 0).xoff + 1 ≠ (demoReading true 0).xcnt) ∧
    (demoAddress.drq = true ∧ demoAddress.act = .readAddress ∧ demoAddress.stage[demoAddress.xoff]? = some 0x79#8 ∧
      demoAddress.xoff + 1 ≠ demoAddress.xcnt) := by decide

/-- LastDataReadEndsTheCommand. -/
theorem test_witness_last_data_read (a : Act) : (demoLast a).drq = true ∧ (demoLast a).act = a ∧
    (demoLast a).stage[(demoLast a).xoff]? = some 0x79#8 ∧ (demoLast a).xoff + 1 = (demoLast a).xcnt := ⟨rfl, rfl, rfl, rfl⟩

/-- MultiSectorReadAdvancesOrFaults: the last byte of the last sector of a track, and of the disk. -/
def demoMulti (tr : Byte) : State := { demoLast (.readSector true) with tr := tr, sr := 0x05#8 }

theorem test_witness_multi_read (tr : Byte) : (demoMulti tr).drq = true ∧ (demoMulti tr).act = .readSector true ∧
    (demoMulti tr).stage[(demoMulti tr).xoff]? = some 0x79#8 ∧ (demoMulti tr).xoff + 1 = (demoMulti tr).xcnt ∧
    (demoMulti tr).sel = some .unit0 ∧ (demoMulti tr).img .unit0 = some demoImage := ⟨rfl, rfl, rfl, rfl, rfl, rfl⟩

/-- The same, and MultiSectorWriteCommitsThenAdvances: within a track, over its end, off the disk. -/
theorem test_witness_next_sector : NextSector 5 0x00#8 0x04#8 0x00#8 0x05#8 ∧ demoImage.Valid 0x00#8 0x05#8 ∧
    NextSector 5 0x00#8 0x05#8 0x01#8 0x01#8 ∧ demoImage.Valid 0x01#8 0x01#8 ∧
    NextSector 5 0x27#8 0x05#8 0x28#8 0x01#8 ∧ ¬ demoImage.Valid 0x28#8 0x01#8 := by decide

/-- DataAccessOutsideATransferOnlyUsesDR: idle, and each wrong direction. -/
theorem test_witness_no_transfer : demo.drq = false ∧ demo.act = .none ∧ (demoWriting true 0).act = .writeSector true ∧
    (demoReading true 0).act = .readSector true := by decide

/-- DataWriteStagesOneByte, and LastDataWriteCommitsTheSector and MultiSectorWriteCommitsThenAdvances at the last byte. -/
theorem test_witness_data_write (m : Bool) : (demoWriting m 1022).drq = true ∧ (demoWriting m 1022).act = .writeSector m ∧
    1022 + 1 ≠ (demoWriting m 1022).xcnt ∧ (demoWriting m 1023).xoff + 1 = (demoWriting m 1023).xcnt ∧
    (demoWriting m 1023).sel = some .unit0 ∧ (demoWriting m 1023).img .unit0 = some demoImage ∧
    demoImage.secSize = (demoWriting m 1023).xcnt ∧ demoImage.Valid (demoWriting m 1023).tr (demoWriting m 1023).sr :=
  ⟨rfl, rfl, by cases m <;> decide, rfl, rfl, rfl, rfl, by cases m <;> decide⟩

theorem test_witness_stage_length (m : Bool) : (demoWriting m 1023).xcnt ≤ (demoWriting m 1023).stage.length := by
  cases m <;> decide +kernel

/-- MultiSectorWriteCommitsThenAdvances: the commit of the last sector of a track, and of the disk. -/
theorem test_witness_multi_write : NextSector demoImage.secCount 0x27#8 0x05#8 0x28#8 0x01#8 ∧ demoImage.Valid 0x27#8 0x05#8 ∧
    ({ demoWriting true 1023 with tr := 0x27#8, sr := 0x05#8 } : State).xoff + 1 = (demoWriting true 1023).xcnt := by decide

/-- The last byte of a write, an image of another sector size on the selected unit. -/
def demoOther : State := { demoWriting true 1023 with imgs := ⟨some { demoImage with secSize := 512 }, none⟩ }

/-- FailedCommitLosesTheSector: another sector size, and an address that is none. -/
theorem test_witness_failed_commit : (demoOther.drq = true ∧ demoOther.act = .writeSector true ∧
      demoOther.xoff + 1 = demoOther.xcnt ∧ demoOther.sel = some .unit0 ∧
      demoOther.img .unit0 = some { demoImage with secSize := 512 } ∧
      ({ demoImage with secSize := 512 } : Image).secSize ≠ demoOther.xcnt) ∧
    ¬ demoImage.Valid 0x28#8 0x01#8 := by decide

/-- ReadTransferDeliversTheStagedBytesInOrder: a transfer of two bytes, none moved. -/
def demoPair : State := { demoReading false 0 with xcnt := 2 }

theorem test_witness_read_transfer : demoPair.drq = true ∧ demoPair.act = .readSector false ∧ demoPair.xoff = 0 ∧
    demoPair.xcnt = [0x78#8, 0x79#8].length ∧ [0x78#8, 0x79#8] ≠ [] ∧
    demoPair.stage.take [0x78#8, 0x79#8].length = [0x78#8, 0x79#8] := by decide

/-- WriteTransferCommitsTheBytesInOrder: a whole sector of 1024 bytes. -/
theorem test_witness_write_transfer : (demoWriting false 0).drq = true ∧ (demoWriting false 0).act = .writeSector false ∧
    (demoWriting false 0).xoff = 0 ∧ (demoWriting false 0).xcnt = (List.replicate 1024 0xA5#8).length ∧
    List.replicate 1024 0xA5#8 ≠ [] ∧ (List.replicate 1024 0xA5#8).length ≤ (demoWriting false 0).stage.length ∧
    (demoWriting false 0).sel = some .unit0 ∧ (demoWriting false 0).img .unit0 = some demoImage ∧
    demoImage.secSize = (List.replicate 1024 0xA5#8).length ∧
    demoImage.Valid (demoWriting false 0).tr (demoWriting false 0).sr := by decide +kernel

/-- ReadSectorPrimitiveFollowsItsRule, WriteSectorPrimitiveFollowsItsRule: an empty unit, each edge of the geometry, and the
last sector. -/
theorem test_witness_primitives : (∀ d, some Drive.unit1 = some d → demo.img d = none) ∧ demo.img .unit0 = some demoImage ∧
    (demoImage.trackCount ≤ 40 ∧ (0 : Nat) < 1 ∧ demoImage.secCount < 6) ∧
    (39 < demoImage.trackCount ∧ 1 ≤ 5 ∧ 5 ≤ demoImage.secCount) ∧
    (List.replicate 1024 0xA5#8).length = demoImage.secSize := by
  refine ⟨?_, rfl, by decide, by decide, List.length_replicate⟩
  intro d h; cases h; rfl

/-- SectorsLieWithinTheImageAndApart: the first sector and the last. -/
theorem test_witness_sectors_apart : 0 < demoImage.trackCount ∧ 1 ≤ 1 ∧ 1 ≤ demoImage.secCount ∧ 39 < demoImage.trackCount ∧
    5 ≤ demoImage.secCount ∧ ((0, 1) : Nat × Nat) ≠ (39, 5) := by decide

/-- InitGivesTheResetState, BothDrivesNotReadyAfterInit. -/
theorem test_witness_init : ({ demoReading false 3 with script := [.init] } : State).script = [.init] ∧
    ∃ z, step { demoReading false 3 with script := [.init] } = .next z := ⟨rfl, _, rfl⟩

/-- AttachPutsTheFileInTheUnit. -/
theorem test_witness_attach : demo.img .unit1 = none ∧ fileSize [⟨1024, 0xA5#8⟩, ⟨203776, 0x00#8⟩] = 204800 := ⟨rfl, by decide⟩

/-- AttachOutsideItsPremises: an occupied unit; the sizes next to the one of the table. -/
theorem test_witness_attach_outside : demo.img .unit0 ≠ none ∧ demo.img .unit1 = none ∧ fileSize [⟨204799, 0x00#8⟩] ≠ 204800 ∧
    fileSize [⟨204801, 0x00#8⟩] ≠ 204800 ∧ fileSize [] ≠ 204800 := by decide

/-- DetachEmptiesTheUnit. -/
theorem test_witness_detach : ({ demo with script := [.detach .unit0] } : State).script = [.detach .unit0] := rfl

/-- OnlyControlWritesChangeTheSelection; with it DensityAndCommandRegisterAreUnobservable and ReadTransferIsASnapshot. -/
theorem test_witness_exec_next : (∃ t, exec .rdData (demoReading false 0) = .next t) ∧ ∀ d, Instr.rdData ≠ .wrControl d :=
  ⟨⟨_, rfl⟩, by simp⟩

/-- The machine runs the input, answering a next state with the property. -/
def stepHas (inp : Input) (s : State) (p : State → Bool) : Bool := nextHas (step { s with script := [inp] }) p

/-- A file of 204800 bytes. -/
def demoFile : List Run := [⟨1024, 0xA5#8⟩, ⟨203776, 0x00#8⟩]

/-- HeadsMoveOnlyByTheirWriters: a head does move, by each of the three writers. -/
theorem test_witness_head_moves :
    stepHas (.bus [0x10#8]) { demo with dr := 0x11#8 } (fun t => decide (t.head .unit0 ≠ 0x00#8)) = true ∧
    stepHas (.bus [0x10#8, 0x80#8]) { demo with dr := 0x11#8 } (fun t => decide (t.head .unit0 ≠ 0x00#8)) = true ∧
    stepHas .init { demo with heads := ⟨0x11#8, 0x00#8⟩ } (fun t => decide (t.head .unit0 ≠ 0x11#8)) = true ∧
    stepHas (.attach .unit1 demoFile) { demo with heads := ⟨0x00#8, 0x28#8⟩ } (fun t => decide (t.head .unit1 ≠ 0x28#8)) =
      true := by decide

/-- ImageBytesChangeOnlyByTheirWriters: a byte does change, by each of the four writers. -/
theorem test_witness_byte_changes :
    stepHas (.bus [0xFC#8, 0x83#8]) (demoWriting false 1023)
      (fun t => decide (t.byteAt .unit0 7167 ≠ (demoWriting false 1023).byteAt .unit0 7167)) = true ∧
    stepHas (.attach .unit1 demoFile) demo (fun t => decide (t.byteAt .unit1 1023 ≠ demo.byteAt .unit1 1023)) = true ∧
    stepHas (.detach .unit0) demo (fun t => decide (t.byteAt .unit0 6144 ≠ demo.byteAt .unit0 6144)) = true ∧
    stepHas .init demo (fun t => decide (t.byteAt .unit0 6144 ≠ demo.byteAt .unit0 6144)) = true := by decide +kernel

/-- ErrorClearsOnlyByACommandOrInit: an error is latched, the invariant holds, and a command and Init do clear it. -/
theorem test_witness_error_cleared : demoFailed.Inv ∧ demoFailed.err = some .recordNotFound ∧
    stepHas (.bus [0xD0#8]) demoFailed (fun t => decide (t.err ≠ some .recordNotFound)) = true ∧
    stepHas .init demoFailed (fun t => decide (t.err ≠ some .recordNotFound)) = true := by
  refine ⟨⟨?_, ?_, ?_, ?_, ?_, ?_, ?_⟩, ?_, ?_, ?_⟩ <;> decide +kernel

/-- InterruptFlagHasTheListedWriters: each of its clauses. -/
theorem test_witness_interrupt_flag : nextHas (step demo) (fun _ => true) = true ∧
    stepHas .init demoFailed (fun _ => true) = true ∧ stepHas (.attach .unit1 demoFile) demo (fun _ => true) = true ∧
    stepHas (.detach .unit0) demo (fun _ => true) = true ∧ (CommandFrame [0x50#8] 0x50#8) ∧
    stepHas (.bus [0x50#8]) demo (fun _ => true) = true ∧ stepHas (.bus (readFrame 0x0#4)) demoFailed (fun _ => true) = true ∧
    stepHas (.bus (writeFrame 0x3#4 0x11#8)) (demoWriting true 3) (fun _ => true) = true ∧
    stepHas (.bus (readFrame 0xF#4)) demo (fun _ => true) = true ∧ (∀ c, ¬ CommandFrame (readFrame 0xF#4) c) :=
  ⟨rfl, rfl, by decide, rfl, .inl rfl, rfl, rfl, rfl, rfl, by simp [CommandFrame, readFrame, writeFrame]⟩

/-- The data-access clause of InterruptFlagHasTheListedWriters, both ways: the last byte of a transfer, and another. -/
theorem test_witness_interrupt_data :
    stepHas (.bus (readFrame 0x3#4)) (demoLast (.readSector false)) (fun t => !t.drq && t.irq) = true ∧
    stepHas (.bus (readFrame 0x3#4)) (demoReading false 0) (fun t => t.drq && !t.irq) = true := by decide

/-- SectorTransfersIgnoreTheHeads: each of its four instructions. -/
theorem test_witness_heads_ignored : (∃ t, exec (.readSector true false false false false) demo = .next t) ∧
    (∃ t, exec (.writeSector true false false false false) demo = .next t) ∧
    (∃ t, exec .rdData (demoReading true 0) = .next t) ∧ (∃ t, exec (.wrData 0x11#8) (demoWriting true 0) = .next t) :=
  ⟨⟨_, rfl⟩, ⟨_, rfl⟩, ⟨_, rfl⟩, ⟨_, rfl⟩⟩

end Sys2Proof.Tests
end

section
/-! The sector primitives of the disk-image space (spec/20_memory.md R67, R68): the answer of each at an absent image, off
the geometry and at a valid address, and from these the two obligations. -/

namespace Sys2Proof.Machine

/-! The geometry test of R65, and the answers that the laws of the commit do not give yet. -/

/-- An address off the geometry: the track beyond the last, or the sector number below 1 or beyond the last. -/
theorem Image.hasSector_eq_false_iff (im : Image) (t n : Nat) :
    im.hasSector t n = false ↔ im.trackCount ≤ t ∨ n < 1 ∨ im.secCount < n := by
  rw [← Bool.not_eq_true, Image.hasSector_iff]; omega

theorem State.readSector_absent {s : State} {u : Option Drive} (h : ∀ d, u = some d → s.img d = none) (t n : Nat) :
    s.readSector u t n = .error .driveNotReady := by
  simp [State.readSector, State.checkSector_absent h]

theorem State.readSector_invalid {s : State} {d : Drive} {im : Image} (h : s.img d = some im) {t n : Nat}
    (k : im.hasSector t n = false) : s.readSector (some d) t n = .error .recordNotFound := by
  simp [State.readSector, State.checkSector_invalid h k]

theorem State.readSector_valid {s : State} {d : Drive} {im : Image} (h : s.img d = some im) {t n : Nat}
    (k : im.hasSector t n = true) :
    s.readSector (some d) t n = .ok (im.bytes.load (im.lin t n) im.secSize) := by
  simp [State.readSector, State.checkSector_valid h k]

theorem State.writeSector_absent {s : State} {u : Option Drive} (h : ∀ d, u = some d → s.img d = none) (t n : Nat)
    (v : List Byte) : s.writeSector u t n v = .error .driveNotReady := by
  simp [State.writeSector, State.checkSector_absent h]

theorem State.writeSector_invalid {s : State} {d : Drive} {im : Image} (h : s.img d = some im) {t n : Nat}
    (k : im.hasSector t n = false) (v : List Byte) : s.writeSector (some d) t n v = .error .recordNotFound := by
  simp [State.writeSector, State.checkSector_invalid h k]

/-! What `MemWrite` leaves in an image's bytes (R9). -/

theorem Image.read_write_inside (im : Image) (a : Nat) (v : List Byte) (k : Nat) (h : k < v.length) :
    (im.write a v).bytes.read (a + k) = v[k] :=
  Memory.read_store_inside im.bytes a v k h

theorem Image.read_write_outside (im : Image) (a : Nat) (v : List Byte) (x : Nat) (h : x < a ∨ a + v.length ≤ x) :
    (im.write a v).bytes.read x = im.bytes.read x :=
  Memory.read_store_outside im.bytes a v x h

/-! The obligations -/

/-- Settles O38: the check of R65 fails the two ways; past it one `MemWrite` at `lin` is all that happens. -/
theorem writeSectorPrimitiveFollowsItsRule : Obligations.WriteSectorPrimitiveFollowsItsRule := by
  intro s u t n v
  refine ⟨fun h => State.writeSector_absent h t n v, ?_⟩
  rintro d im rfl h
  refine ⟨fun off => State.writeSector_invalid h ((im.hasSector_eq_false_iff t n).mpr off) v, fun ht h1 hn hv => ?_⟩
  have valid : im.hasSector t n = true := (im.hasSector_iff t n).mpr ⟨ht, h1, hn⟩
  refine ⟨_, im.write (im.lin t n) v, State.writeSector_valid h valid v, rfl, ?other, ?this, rfl, ?inside, ?outside⟩
  case other => intro w hw; rw [State.img_setImg, if_neg hw]
  case this => rw [State.img_setImg, if_pos rfl]
  case inside => exact im.read_write_inside (im.lin t n) v
  case outside => exact fun a ha => im.read_write_outside (im.lin t n) v a (by rw [hv]; exact ha)

/-- Settles O37: the check of R65 fails the two ways; past it the answer is the load of `sec_size` bytes at `lin`. -/
theorem readSectorPrimitiveFollowsItsRule : Obligations.ReadSectorPrimitiveFollowsItsRule := by
  intro s u t n
  refine ⟨fun h => State.readSector_absent h t n, ?_⟩
  rintro d im rfl h
  refine ⟨fun off => State.readSector_invalid h ((im.hasSector_eq_false_iff t n).mpr off), fun ht h1 hn => ?_⟩
  have valid : im.hasSector t n = true := (im.hasSector_iff t n).mpr ⟨ht, h1, hn⟩
  exact ⟨_, State.readSector_valid h valid, Memory.load_length .., im.bytes.load_getElem? (im.lin t n) im.secSize⟩

end Sys2Proof.Machine
end

section
/-! The decoder on the frames of R117: the fields of a transaction word, the dispatch by offset (R91), and from these the
obligation on the 32 combinations of form and offset. -/

namespace Sys2Proof

/-! The fields of a transaction word, given its form nibble (bits 15:12), its offset and its value (R117). -/

theorem transactionWord_isWrite (form off : BitVec 4) (d : Byte) :
    ((form ++ off) ++ d : Word16).getLsbD 15 = form.getLsbD 3 :=
  BitVec.getLsbD_append.trans BitVec.getLsbD_append

theorem transactionWord_reservedBits (form off : BitVec 4) (d : Byte) :
    ((form ++ off) ++ d : Word16).extractLsb' 12 3 = form.extractLsb' 0 3 :=
  (BitVec.extractLsb'_append_eq_of_le (by decide)).trans (BitVec.extractLsb'_append_eq_of_le (by decide))

theorem transactionWord_offset (form off : BitVec 4) (d : Byte) :
    ((form ++ off) ++ d : Word16).extractLsb' 8 4 = off :=
  (BitVec.extractLsb'_append_eq_of_le (by decide)).trans BitVec.extractLsb'_append_eq_right

theorem transactionWord_value (form off : BitVec 4) (d : Byte) :
    ((form ++ off) ++ d : Word16).extractLsb' 0 8 = d :=
  BitVec.extractLsb'_append_eq_right

/-! The two forms reach the two dispatch tables of R91. -/

theorem decode_writeFrame (off : BitVec 4) (d : Byte) : decode (writeFrame off d) = .ok (decodeWrite off d) := by
  simp only [writeFrame, decode, decodeTransaction, transactionWord_reservedBits, transactionWord_isWrite,
    transactionWord_offset, transactionWord_value]
  rfl

theorem decode_readFrame (off : BitVec 4) : decode (readFrame off) = .ok (decodeRead off) := by
  simp only [readFrame, decode, decodeTransaction, transactionWord_reservedBits, transactionWord_isWrite,
    transactionWord_offset, transactionWord_value]
  rfl

/-! The reserved offsets (R105) fall in the last row of each table. -/

theorem decodeWrite_of_unusedOffset {off : BitVec 4} (h : unusedOffset off = true) (d : Byte) :
    decodeWrite off d = .wrUnused off d := by
  obtain ⟨low, high⟩ : 0x4 ≤ off.toNat ∧ off.toNat ≤ 0xE := by simpa [unusedOffset] using h
  unfold decodeWrite
  split
  case h_6 => rfl
  all_goals omega

theorem decodeRead_of_unusedOffset {off : BitVec 4} (h : unusedOffset off = true) :
    decodeRead off = .rdUnused off := by
  obtain ⟨low, high⟩ : 0x4 ≤ off.toNat ∧ off.toNat ≤ 0xE := by simpa [unusedOffset] using h
  unfold decodeRead
  split
  case h_6 => rfl
  all_goals omega

theorem unusedOffset_of_not_register :
    ∀ off : BitVec 4, off ≠ 0x0#4 → off ≠ 0x1#4 → off ≠ 0x2#4 → off ≠ 0x3#4 → off ≠ 0xF#4 → unusedOffset off = true := by
  decide

/-- Settles O4: a frame reaches the table of its form; there the five register offsets have a row each, and every other
offset is reserved. -/
theorem transactionsDecodeByFormAndOffset : Obligations.TransactionsDecodeByFormAndOffset := by
  intro off d
  rw [decode_writeFrame, decode_readFrame]
  split_ifs with h0 h1 h2 h3 hF
  case neg =>
    have unused := unusedOffset_of_not_register off h0 h1 h2 h3 hF
    exact ⟨congrArg _ (decodeWrite_of_unusedOffset unused d), congrArg _ (decodeRead_of_unusedOffset unused)⟩
  all_goals subst off; exact ⟨rfl, rfl⟩

end Sys2Proof
end

section
/-! The register accesses that move no transfer byte (spec/40_register_access.md): the answer of each as one equation, the
frame they share, and from these the three obligations. -/

namespace Sys2Proof.Machine

/-! The reads deliver a byte (R123, R125, R129, R132). -/

@[simp] theorem exec_rdTrack (s : State) : exec .rdTrack s = .next (s.deliver s.tr) := rfl

@[simp] theorem exec_rdSector (s : State) : exec .rdSector s = .next (s.deliver s.sr) := rfl

@[simp] theorem exec_rdUnused (off : BitVec 4) (s : State) : exec (.rdUnused off) s = .next (s.deliver 0xFF#8) := rfl

@[simp] theorem exec_rdId (s : State) : exec .rdId s = .next (s.deliver 0x10#8) := rfl

/-- The reads reach no image (R120). -/
theorem State.sameBytes_deliver (s : State) (v : Byte) : s.SameBytes (s.deliver v) :=
  State.sameBytes_of_imgs (s.deliver_imgs v)

/-! The writes of the track and the sector register, ignored while busy (R124, R126, R261). -/

theorem exec_wrTrack (d : Byte) (s : State) :
    exec (.wrTrack d) s = .next { s with tr := if s.busy then s.tr else d } := by
  simp only [exec, execWrTrack]
  split_ifs with busy
  case pos => rfl
  case neg => rfl

theorem exec_wrSector (d : Byte) (s : State) :
    exec (.wrSector d) s = .next { s with sr := if s.busy then s.sr else d } := by
  simp only [exec, execWrSector]
  split_ifs with busy
  case pos => rfl
  case neg => rfl

/-! A write to an unused offset stores nothing (R130). -/

@[simp] theorem exec_wrUnused (off : BitVec 4) (d : Byte) (s : State) : exec (.wrUnused off d) s = .next s := rfl

/-! The obligations -/

/-- Settles O9: each of the four reads delivers its byte, and a delivery writes the bus byte alone. -/
theorem plainReadsReturnTheirByte : Obligations.PlainReadsReturnTheirByte := by
  intro s off _
  exact ⟨⟨_, exec_rdTrack s, rfl, s.sameBytes_deliver _⟩, ⟨_, exec_rdSector s, rfl, s.sameBytes_deliver _⟩,
    ⟨_, exec_rdUnused off s, rfl, s.sameBytes_deliver _⟩, ⟨_, exec_rdId s, rfl, s.sameBytes_deliver _⟩⟩

/-- Settles O10: busy or not, the answer differs from the state in the one register alone. -/
theorem trackAndSectorWritesTakeEffectWhenIdle : Obligations.TrackAndSectorWritesTakeEffectWhenIdle := by
  intro s d
  exact ⟨⟨_, exec_wrTrack d s, rfl, State.sameBytes_of_imgs rfl⟩, ⟨_, exec_wrSector d s, rfl, State.sameBytes_of_imgs rfl⟩⟩

/-- Settles O11: the answer is the state itself, whatever the offset and the byte. -/
theorem unusedWriteChangesNothing : Obligations.UnusedWriteChangesNothing := by
  intro s off d _
  exact ⟨s, exec_wrUnused off d s, rfl, State.sameBytes_of_imgs rfl⟩

end Sys2Proof.Machine
end

section
/-! Command writes while busy (R121, R260): each form of a command but Force Interrupt is a `commandWrite` or a
`reservedWrite`, and both reject; from this the obligation. -/

namespace Sys2Proof.Machine

theorem reservedWrite_busy {s : State} (h : s.busy = true) (c : Byte) : reservedWrite c s = .next s := by
  simp [reservedWrite, h]

theorem exec_wrCommand_busy {s : State} {c : Byte} (busy : s.busy = true) (h : commandClass c ≠ .forceInterrupt) :
    exec (.wrCommand c) s = .next s := by
  simp only [exec, execWrCommand]
  cases hc : commandClass c
  case forceInterrupt => exact absurd hc h
  case reservedE | reservedF => exact reservedWrite_busy busy c
  all_goals exact commandWrite_busy busy c _

theorem exec_decodeCommand_busy {s : State} {c : Byte} (busy : s.busy = true) (h : commandClass c ≠ .forceInterrupt) :
    exec (decodeCommand c) s = .next s := by
  unfold decodeCommand
  cases hc : commandClass c
  case forceInterrupt => exact absurd hc h
  case reservedE | reservedF => exact reservedWrite_busy busy _
  all_goals exact commandWrite_busy busy _ _

/-- Settles O15: a busy state rejects the byte as a command write, and the command it decodes to, class by class. -/
theorem busyRejectsEveryOtherCommand : Obligations.BusyRejectsEveryOtherCommand := by
  intro s c busy h
  exact ⟨exec_wrCommand_busy busy h, exec_decodeCommand_busy busy h⟩

end Sys2Proof.Machine
end

section
/-! The encoding (spec/30_encoding.md): decoder and encoder are inverse to each other, shown for one command class, or one
form of transaction frame, at a time. -/

namespace Sys2Proof

/-! A command byte decodes to its class with its flags (R93 to R97). -/

theorem decodeCommand_restoreByte : ∀ h v r, decodeCommand (restoreByte h v r) = .restore h v r := by decide

theorem decodeCommand_seekByte : ∀ h v r, decodeCommand (seekByte h v r) = .seek h v r := by decide

theorem decodeCommand_stepByte : ∀ t h v r, decodeCommand (stepByte t h v r) = .step t h v r := by decide

theorem decodeCommand_stepInByte : ∀ t h v r, decodeCommand (stepInByte t h v r) = .stepIn t h v r := by decide

theorem decodeCommand_stepOutByte : ∀ t h v r, decodeCommand (stepOutByte t h v r) = .stepOut t h v r := by decide

theorem decodeCommand_readSectorByte :
    ∀ m l e u x, decodeCommand (readSectorByte m l e u x) = .readSector m l e u x := by decide

theorem decodeCommand_writeSectorByte :
    ∀ m l e u a, decodeCommand (writeSectorByte m l e u a) = .writeSector m l e u a := by decide

theorem decodeCommand_readAddressByte :
    ∀ x3 e u x0, decodeCommand (readAddressByte x3 e u x0) = .readAddress x3 e u x0 := by decide

theorem decodeCommand_forceInterruptByte :
    ∀ i3 i2 i1 i0, decodeCommand (forceInterruptByte i3 i2 i1 i0) = .forceInterrupt i3 i2 i1 i0 := by decide

theorem decodeCommand_reservedEByte : ∀ x, decodeCommand (reservedEByte x) = .reservedE x := by decide

theorem decodeCommand_reservedFByte : ∀ x, decodeCommand (reservedFByte x) = .reservedF x := by decide

/-- Put back together with its class, the flags of a command byte are the byte. -/
theorem encode_decodeCommand : ∀ c : Byte, encode (decodeCommand c) = [c] := by decide

/-- Settles O1: a command's frame is its byte, decoded by its class; a transaction's frame reaches the dispatch table of its
form, at its own offset. -/
theorem decodeOfEncodeIsIdentity : Obligations.DecodeOfEncodeIsIdentity := by
  intro i wf
  cases i
  case restore h v r => exact congrArg _ (decodeCommand_restoreByte h v r)
  case seek h v r => exact congrArg _ (decodeCommand_seekByte h v r)
  case step t h v r => exact congrArg _ (decodeCommand_stepByte t h v r)
  case stepIn t h v r => exact congrArg _ (decodeCommand_stepInByte t h v r)
  case stepOut t h v r => exact congrArg _ (decodeCommand_stepOutByte t h v r)
  case readSector m l e u x => exact congrArg _ (decodeCommand_readSectorByte m l e u x)
  case writeSector m l e u a => exact congrArg _ (decodeCommand_writeSectorByte m l e u a)
  case readAddress x3 e u x0 => exact congrArg _ (decodeCommand_readAddressByte x3 e u x0)
  case forceInterrupt i3 i2 i1 i0 => exact congrArg _ (decodeCommand_forceInterruptByte i3 i2 i1 i0)
  case reservedE x => exact congrArg _ (decodeCommand_reservedEByte x)
  case reservedF x => exact congrArg _ (decodeCommand_reservedFByte x)
  case wrUnused off d => exact (decode_writeFrame off d).trans (congrArg _ (decodeWrite_of_unusedOffset wf d))
  case rdUnused off => exact (decode_readFrame off).trans (congrArg _ (decodeRead_of_unusedOffset wf))
  case wrCommand d | wrTrack d | wrSector d | wrData d | wrControl d => exact decode_writeFrame _ d
  case rdStatus | rdTrack | rdSector | rdData | rdId => exact decode_readFrame _

/-! The other direction: the frame that a dispatch table's answer encodes to. -/

theorem decodeCommand_wellFormed (c : Byte) : (decodeCommand c).WellFormed := by
  unfold decodeCommand
  cases commandClass c <;> rfl

theorem encode_decodeWrite (off : BitVec 4) (d : Byte) :
    encode (decodeWrite off d) = writeFrame off d ∧ (decodeWrite off d).WellFormed := by
  by_cases unused : unusedOffset off = true
  · rw [decodeWrite_of_unusedOffset unused]
    exact ⟨rfl, unused⟩
  · have register : off = 0x0#4 ∨ off = 0x1#4 ∨ off = 0x2#4 ∨ off = 0x3#4 ∨ off = 0xF#4 := by
      revert off; decide
    rcases register with rfl | rfl | rfl | rfl | rfl <;> exact ⟨rfl, rfl⟩

theorem encode_decodeRead (off : BitVec 4) :
    encode (decodeRead off) = readFrame off ∧ (decodeRead off).WellFormed := by
  revert off; decide

/-- A byte is its two nibbles. -/
theorem byte_eq_nibbles (b : Byte) : b = b.extractLsb' 4 4 ++ b.extractLsb' 0 4 := by
  revert b; decide

theorem form_of_reservedBits : ∀ form : BitVec 4, form.extractLsb' 0 3 = 0#3 →
    form = if form.getLsbD 3 then 0b1000#4 else 0b0000#4 := by decide

theorem decodeTransaction_ok {lo hi : Byte} {i : Instr} (h : decodeTransaction (hi ++ lo) = .ok i) :
    ∃ off, ([lo, hi] = writeFrame off lo ∧ i = decodeWrite off lo) ∨ ([lo, hi] = readFrame off ∧ i = decodeRead off) := by
  obtain ⟨form, off, rfl⟩ : ∃ form off : BitVec 4, hi = form ++ off := ⟨_, _, byte_eq_nibbles hi⟩
  simp only [decodeTransaction, transactionWord_reservedBits, transactionWord_isWrite, transactionWord_offset,
    transactionWord_value] at h
  split_ifs at h with reserved isWrite value
  · have := form_of_reservedBits form (not_not.mp reserved)
    rw [if_pos isWrite] at this
    subst form
    exact ⟨off, .inl ⟨rfl, (Except.ok.inj h).symm⟩⟩
  · have := form_of_reservedBits form (not_not.mp reserved)
    rw [if_neg isWrite] at this
    subst form
    rw [not_not.mp value]
    exact ⟨off, .inr ⟨rfl, (Except.ok.inj h).symm⟩⟩

/-- Settles O2: one byte is the command it decodes to, two bytes the word of the dispatch row; no other frame decodes. -/
theorem decodedFrameIsTheEncoding : Obligations.DecodedFrameIsTheEncoding := by
  intro f i h
  match f, h with
  | [c], h =>
    obtain rfl : decodeCommand c = i := Except.ok.inj h
    exact ⟨encode_decodeCommand c, decodeCommand_wellFormed c⟩
  | [lo, hi], h =>
    obtain ⟨off, ⟨frame, rfl⟩ | ⟨frame, rfl⟩⟩ := decodeTransaction_ok h
    · rw [frame]; exact encode_decodeWrite off lo
    · rw [frame]; exact encode_decodeRead off

/-- Settles O3: the class is a function of the high nibble, as the match under each row's mask is; checked over all 256
bytes. -/
theorem commandClassFollowsMatchAndMask : Obligations.CommandClassFollowsMatchAndMask := by
  unfold Obligations.CommandClassFollowsMatchAndMask
  decide

/-- Settles O5: eight closed words, decoded. -/
theorem specWordsDecodeAsWritten : Obligations.SpecWordsDecodeAsWritten := by
  unfold Obligations.SpecWordsDecodeAsWritten
  decide

end Sys2Proof
end

section
/-! Commands (spec/40_register_access.md R121): the rule of a command's class, when a command byte is accepted, and what an
accepted command leaves. Later proofs reach a command through these lemmas, not through its meaning's `match`. -/

namespace Sys2Proof.Machine

/-! ## Acceptance -/

/-- The rule of the class of the command byte `c`; a reserved byte has none. -/
def commandRule (c : Byte) : State → State :=
  match commandClass c with
  | .restore => restore
  | .seek => seek
  | .step => fun s => stepOnce s.sdir (c.getLsbD 4) s
  | .stepIn => stepToward .inward (c.getLsbD 4)
  | .stepOut => stepToward .outward (c.getLsbD 4)
  | .readSector => armSectorRead (c.getLsbD 4)
  | .writeSector => armSectorWrite (c.getLsbD 4)
  | .readAddress => readAddress
  | .forceInterrupt => forceInterrupt (c.getLsbD 3)
  | .reservedE => id
  | .reservedF => id

/-- The command byte `c` is accepted: Force Interrupt always, another class that is not reserved while idle (R121). -/
abbrev State.Accepts (s : State) (c : Byte) : Prop :=
  commandClass c = .forceInterrupt ∨ (s.busy = false ∧ commandClass c ≠ .reservedE ∧ commandClass c ≠ .reservedF)

theorem reservedWrite_idle {s : State} (h : s.busy = false) (c : Byte) :
    reservedWrite c s = .refused (.reservedCommand c) := by
  simp [reservedWrite, h]

theorem exec_wrCommand_accepted {s : State} {c : Byte} (h : s.Accepts c) :
    exec (.wrCommand c) s = .next (commandRule c (s.accept c)) := by
  simp only [exec, execWrCommand, commandRule]
  cases hc : commandClass c
  case forceInterrupt => rfl
  case reservedE | reservedF => simp [State.Accepts, hc] at h
  all_goals exact commandWrite_idle (by simpa [State.Accepts, hc] using h) c _

theorem exec_wrCommand_refused {s : State} {c : Byte} (idle : s.busy = false)
    (h : commandClass c = .reservedE ∨ commandClass c = .reservedF) :
    exec (.wrCommand c) s = .refused (.reservedCommand c) := by
  simp only [exec, execWrCommand]
  rcases h with hc | hc <;> simp only [hc] <;> exact reservedWrite_idle idle c

/-- A command byte is accepted, rejected because another command is in progress, or reserved and refused. -/
theorem State.accepts_cases (s : State) (c : Byte) :
    s.Accepts c ∨ (s.busy = true ∧ commandClass c ≠ .forceInterrupt) ∨
      (s.busy = false ∧ (commandClass c = .reservedE ∨ commandClass c = .reservedF)) := by
  unfold State.Accepts
  by_cases hf : commandClass c = .forceInterrupt
  · exact .inl (.inl hf)
  · cases hb : s.busy
    · by_cases hr : commandClass c = .reservedE ∨ commandClass c = .reservedF
      · exact .inr (.inr ⟨rfl, hr⟩)
      · exact .inl (.inr ⟨rfl, not_or.mp hr⟩)
    · exact .inr (.inl ⟨rfl, hf⟩)

/-- A command write that answers a next state was rejected and changed nothing, or ran the rule of its class. -/
theorem exec_wrCommand_next {s t : State} {c : Byte} (h : exec (.wrCommand c) s = .next t) :
    (s.busy = true ∧ commandClass c ≠ .forceInterrupt ∧ t = s) ∨
      (s.Accepts c ∧ t = commandRule c (s.accept c)) := by
  rcases s.accepts_cases c with acc | ⟨busy, hf⟩ | ⟨idle, hr⟩
  · rw [exec_wrCommand_accepted acc] at h
    exact .inr ⟨acc, (Host.Outcome.next.inj h).symm⟩
  · rw [exec_wrCommand_busy busy hf] at h
    exact .inl ⟨busy, hf, (Host.Outcome.next.inj h).symm⟩
  · rw [exec_wrCommand_refused idle hr] at h
    cases h

/-! ## A command by its byte and by its name -/

/-- Settles O8: with the same rule for the class, what is left to show is that the decoded flags give the byte back. -/
theorem commandWriteRunsTheDecodedCommand : Obligations.CommandWriteRunsTheDecodedCommand := by
  intro c s
  have byte := encode_decodeCommand c
  unfold decodeCommand at byte ⊢
  simp only [exec, execWrCommand]
  cases hc : commandClass c <;> simp only [hc, encode, List.cons.injEq, and_true] at byte ⊢
  case restore => rw [execRestore, byte]
  case seek => rw [execSeek, byte]
  case step => rw [execStep, byte]
  case stepIn => rw [execStepIn, byte]
  case stepOut => rw [execStepOut, byte]
  case readSector => rw [execReadSector, byte]
  case writeSector => rw [execWriteSector, byte]
  case readAddress => rw [execReadAddress, byte]
  case forceInterrupt => rw [execForceInterrupt, byte]
  case reservedE => rw [execReservedE, byte]
  case reservedF => rw [execReservedF, byte]

/-- A command runs as the write of its byte. -/
theorem exec_command {i : Instr} {c : Byte} (h : encode i = [c]) (s : State) : exec i s = exec (.wrCommand c) s := by
  have wf : i.WellFormed := by
    cases i
    case wrUnused | rdUnused => cases h
    all_goals rfl
  have decoded : decode [c] = .ok i := h ▸ decodeOfEncodeIsIdentity i wf
  rw [commandWriteRunsTheDecodedCommand c s, Except.ok.inj decoded]

end Sys2Proof.Machine
end

section
/-! The rule of each command (spec/41 to 43): what it makes of the state that accepted the byte, as one equation where it
moves a head and one case of `CommandResult` for all of them. -/

namespace Sys2Proof.Machine

/-! ## Positioning -/

/-- Both heads after the selected unit's head is put to `f` of that unit; with no unit selected none moves (R141, D16). -/
def State.moveHead (s : State) (f : Drive → Byte) : PerDrive Byte :=
  match s.sel with
  | none => s.heads
  | some u => s.heads.set u (f u)

theorem State.get_moveHead (s : State) (f : Drive → Byte) (u : Drive) :
    (s.moveHead f).get u = if s.sel = some u then f u else s.head u := by
  unfold State.moveHead State.head
  cases hs : s.sel with
  | none => simp
  | some v =>
    rw [PerDrive.get_set]
    by_cases huv : u = v
    · subst huv; simp
    · rw [if_neg huv, if_neg (by simpa using Ne.symm huv)]

/-- A unit is selected and its head is at track 0 (R213). -/
abbrev State.AtTrackZero (s : State) : Prop := ∃ u, s.sel = some u ∧ s.head u = 0x00#8

/-- Where a seek takes the head of `u`: to DR, or to the last track (R143). -/
def State.seekTarget (s : State) (u : Drive) : Byte := BitVec.ofNat 8 (min s.dr.toNat (s.limit u - 1))

/-- Where a step takes the head of `u`: one track on, within its bound (R144). -/
def State.stepTarget (d : Dir) (s : State) (u : Drive) : Byte :=
  if d = .inward then BitVec.ofNat 8 (min ((s.head u).toNat + 1) (s.limit u - 1))
  else if s.head u = 0x00#8 then 0x00#8 else s.head u - 1

theorem restore_eq (s : State) :
    restore s = State.terminate { s with tr := 0x00#8, sdir := .outward, heads := s.moveHead fun _ => 0x00#8 } := by
  unfold restore State.moveHead
  cases s.sel <;> rfl

theorem seek_eq (s : State) :
    seek s = State.terminate
      { s with tr := s.dr, sdir := seekDir s.dr s.tr s.sdir, heads := s.moveHead s.seekTarget } := by
  unfold seek State.moveHead
  cases s.sel <;> rfl

theorem PerDrive.set_get {α : Type} (p : PerDrive α) (u : Drive) : p.set u (p.get u) = p := by
  cases u <;> rfl

theorem stepOnce_eq (d : Dir) (t : Bool) (s : State) :
    stepOnce d t s = State.terminate
      { s with
        tr := if d = .outward ∧ s.AtTrackZero then 0x00#8 else stepTrack d t s.tr
        heads := s.moveHead (s.stepTarget d) } := by
  unfold stepOnce State.moveHead
  rcases Option.eq_none_or_eq_some s.sel with hs | ⟨u, hs⟩
  · simp [hs, State.AtTrackZero]
  · cases d with
    | inward => simp [hs, State.stepTarget, State.setHead, State.head, State.limit, State.img]
    | outward =>
      by_cases zero : s.heads.get u = 0x00#8
      · have stays : s.heads.set u 0x00#8 = s.heads := zero ▸ s.heads.set_get u
        simp [hs, State.AtTrackZero, State.stepTarget, State.head, zero, stays]
      · simp [hs, State.AtTrackZero, State.stepTarget, State.head, State.setHead, zero]

theorem stepToward_eq (d : Dir) (t : Bool) (s : State) :
    stepToward d t s = State.terminate
      { s with
        tr := if d = .outward ∧ s.AtTrackZero then 0x00#8 else stepTrack d t s.tr
        sdir := d
        heads := s.moveHead (s.stepTarget d) } := stepOnce_eq d t _

/-! A head on its track is taken to a track. -/

theorem toNat_ofNat_clamp_lt {x limit : Nat} (h : 0 < limit) : (BitVec.ofNat 8 (min x (limit - 1))).toNat < limit := by
  have := Nat.mod_le (min x (limit - 1)) (2 ^ 8)
  rw [BitVec.toNat_ofNat]
  omega

theorem State.seekTarget_lt {s : State} {u : Drive} (h : s.HeadOk u) : (s.seekTarget u).toNat < s.limit u :=
  toNat_ofNat_clamp_lt (Nat.zero_lt_of_lt h)

theorem State.stepTarget_lt (d : Dir) {s : State} {u : Drive} (h : s.HeadOk u) :
    (s.stepTarget d u).toNat < s.limit u := by
  unfold State.stepTarget
  split_ifs with inward zero
  · exact toNat_ofNat_clamp_lt (Nat.zero_lt_of_lt h)
  · exact Nat.zero_lt_of_lt h
  · have := (s.head u).isLt
    have : (s.head u).toNat ≠ 0 := fun h0 => zero (BitVec.eq_of_toNat_eq h0)
    have : s.limit u > (s.head u).toNat := h
    bv_omega

/-! ## The result of an accepted command -/

/-- What the rule of a command byte `c` that is neither reserved nor Force Interrupt makes of the state `s` that accepted
it: a positioning command ends, a head within its bound still within it; a disk command ends with a fault, or arms. -/
inductive CommandResult (c : Byte) (s : State) : State → Prop
  /-- A positioning command (R142 to R147), by D2 a byte below 0x80. -/
  | positioned (tr : Byte) (d : Dir) (f : Drive → Byte) (low : c.toNat < 0x80)
      (onTrack : ∀ u, s.HeadOk u → (f u).toNat < s.limit u) :
      CommandResult c s (State.terminate { s with tr := tr, sdir := d, heads := s.moveHead f })
  /-- A disk command without its image or its sector (R224). -/
  | faulted (f : ControllerFault) : CommandResult c s (s.raise f)
  /-- Read Sector (R163). -/
  | reading (m : Bool) (d : Drive) (im : Image) (a : Nat) (present : s.img d = some im) :
      CommandResult c s ((s.fillStage (im.bytes.load a im.secSize)).arm (.readSector m) im.secSize)
  /-- Write Sector (R164). -/
  | writing (m : Bool) (d : Drive) (im : Image) (present : s.img d = some im) :
      CommandResult c s (s.arm (.writeSector m) im.secSize)
  /-- Read Address (R180). -/
  | addressing (d : Drive) (im : Image) :
      CommandResult c s { (s.fillStage (s.descriptor d im)).arm .readAddress Config.raLen with draws := s.draws + 1 }

/-- A byte is below 0x80 exactly where its class is one of the five positioning commands (R93, D2). -/
theorem toNat_lt_of_positioning : ∀ c : Byte,
    commandClass c = .restore ∨ commandClass c = .seek ∨ commandClass c = .step ∨ commandClass c = .stepIn ∨
      commandClass c = .stepOut → c.toNat < 0x80 := by decide

theorem armSectorRead_result (c : Byte) (m : Bool) (s : State) : CommandResult c s (armSectorRead m s) := by
  rcases armSectorRead_cases m s with ⟨f, h⟩ | ⟨d, im, -, present, -, h⟩ <;> rw [h]
  · exact .faulted f
  · exact .reading m d im _ present

theorem armSectorWrite_result (c : Byte) (m : Bool) (s : State) : CommandResult c s (armSectorWrite m s) := by
  rcases armSectorWrite_cases m s with ⟨f, h⟩ | ⟨d, im, -, present, -, h⟩ <;> rw [h]
  · exact .faulted f
  · exact .writing m d im present

theorem readAddress_result (c : Byte) (s : State) : CommandResult c s (readAddress s) := by
  rcases readAddress_cases s with ⟨f, h⟩ | ⟨d, im, -, -, h⟩ <;> rw [h]
  · exact .faulted f
  · exact .addressing d im

theorem commandRule_forceInterrupt {c : Byte} (h : commandClass c = .forceInterrupt) (s : State) :
    commandRule c s = forceInterrupt (c.getLsbD 3) s := by
  simp [commandRule, h]

/-- The rule of an accepted command that is not Force Interrupt gives one of the results. -/
theorem commandRule_result {s : State} {c : Byte} (acc : s.Accepts c) (h : commandClass c ≠ .forceInterrupt) (z : State) :
    CommandResult c z (commandRule c z) := by
  obtain ⟨-, hE, hF⟩ := acc.resolve_left h
  have low := toNat_lt_of_positioning c
  unfold commandRule
  cases hc : commandClass c <;> simp only [hc, reduceCtorEq, ne_eq, not_true, or_self, or_false, or_true,
    true_implies] at h hE hF low ⊢
  case restore => exact restore_eq z ▸ .positioned _ _ _ low fun u hu => Nat.zero_lt_of_lt hu
  case seek => exact seek_eq z ▸ .positioned _ _ _ low fun u hu => State.seekTarget_lt hu
  case step => exact stepOnce_eq _ _ z ▸ .positioned _ z.sdir _ low fun u hu => State.stepTarget_lt _ hu
  case stepIn => exact stepToward_eq _ _ z ▸ .positioned _ _ _ low fun u hu => State.stepTarget_lt _ hu
  case stepOut => exact stepToward_eq _ _ z ▸ .positioned _ _ _ low fun u hu => State.stepTarget_lt _ hu
  case readSector => exact armSectorRead_result c _ z
  case writeSector => exact armSectorWrite_result c _ z
  case readAddress => exact readAddress_result c z

/-- What every result keeps of the state that accepted the command, and how it ends or begins. -/
theorem CommandResult.frame {c : Byte} {s t : State} (h : CommandResult c s t) :
    t.cr = s.cr ∧ t.sr = s.sr ∧ t.dr = s.dr ∧ t.sel = s.sel ∧ t.dens = s.dens ∧ t.imgs = s.imgs := by
  cases h <;> exact ⟨rfl, rfl, rfl, rfl, rfl, rfl⟩

/-- A result is idle, with the interrupt pending, or armed, with the error and the interrupt as the acceptance left them. -/
theorem CommandResult.ends {c : Byte} {s t : State} (h : CommandResult c s t) :
    (t.busy = false ∧ t.drq = false ∧ t.act = .none ∧ t.xoff = 0 ∧ t.xcnt = 0 ∧ t.irq = true) ∨
      (t.busy = true ∧ t.drq = true ∧ t.act ≠ .none ∧ t.xoff = 0 ∧ t.err = s.err ∧ t.irq = s.irq) := by
  cases h
  case positioned | faulted => exact .inl ⟨rfl, rfl, rfl, rfl, rfl, rfl⟩
  case reading | writing | addressing => exact .inr ⟨rfl, rfl, Act.noConfusion, rfl, rfl, rfl⟩

end Sys2Proof.Machine
end

section
/-! The data register (spec/44_data_transfer.md), one equation per way a byte can move; and `ExecResult`, which says once
what an instruction that answers a next state did. -/

namespace Sys2Proof.Machine

/-! ## One byte moved -/

theorem moveByteOut_mid {s : State} (h : s.xoff + 1 ≠ s.xcnt) :
    moveByteOut s = { s with dr := s.stageByte s.xoff, xoff := s.xoff + 1 } := by
  simp [moveByteOut, h]

theorem moveByteOut_last {s : State} (h : s.xoff + 1 = s.xcnt) :
    moveByteOut s = completeRead { s with dr := s.stageByte s.xoff, xoff := s.xoff + 1 } := by
  simp [moveByteOut, h]

theorem moveByteIn_mid {s : State} (h : s.xoff + 1 ≠ s.xcnt) :
    moveByteIn s = { s with stage := s.stage.set s.xoff s.dr, xoff := s.xoff + 1 } := by
  simp [moveByteIn, h, State.setStage]

theorem moveByteIn_last {s : State} (h : s.xoff + 1 = s.xcnt) :
    moveByteIn s = completeWrite { s with stage := s.stage.set s.xoff s.dr, xoff := s.xoff + 1 } := by
  simp [moveByteIn, h, State.setStage]

/-! ## Completion: a single-sector transfer ends, a multiple-sector one advances (R192, R194). -/

theorem completeRead_single {s : State} (h : s.act ≠ .readSector true) : completeRead s = s.terminate := by
  unfold completeRead
  split
  case h_1 multi => exact absurd multi h
  all_goals rfl

theorem completeRead_multi {s : State} (h : s.act = .readSector true) :
    completeRead s = advanceAndRearm (armSectorRead true) s := by
  simp [completeRead, h]

theorem afterCommit_single {s : State} (h : s.act ≠ .writeSector true) : afterCommit s = s.terminate := by
  unfold afterCommit
  split
  case h_1 multi => exact absurd multi h
  all_goals rfl

theorem afterCommit_multi {s : State} (h : s.act = .writeSector true) :
    afterCommit s = advanceAndRearm (armSectorWrite true) s := by
  simp [afterCommit, h]

/-! ## The commit (R194), in its order: the image, the sector size, the address. -/

theorem completeWrite_absent {s : State} (h : ∀ u, s.sel = some u → s.img u = none) :
    completeWrite s = s.raise .driveNotReady := by
  simp [completeWrite, (s.selImage_eq_none_iff).mpr h]

theorem completeWrite_misfit {s : State} {u : Drive} {im : Image} (hs : s.sel = some u) (h : s.img u = some im)
    (misfit : im.secSize ≠ s.xcnt ∨ im.hasSector s.tr.toNat s.sr.toNat = false) :
    completeWrite s = s.raise .recordNotFound := by
  have present : s.selImage = some im := (s.selImage_eq_some_iff im).mpr ⟨u, hs, h⟩
  unfold completeWrite
  simp only [present]
  split_ifs with size
  · rw [hs, State.writeSector_invalid h (misfit.resolve_left (not_not.mpr size))]
  · rfl

theorem completeWrite_valid {s : State} {u : Drive} {im : Image} (hs : s.sel = some u) (h : s.img u = some im)
    (size : im.secSize = s.xcnt) (valid : im.hasSector s.tr.toNat s.sr.toNat = true) :
    completeWrite s = afterCommit
      (s.setImg u (some (im.write (im.lin s.tr.toNat s.sr.toNat) (s.stage.take s.xcnt)))) := by
  have present : s.selImage = some im := (s.selImage_eq_some_iff im).mpr ⟨u, hs, h⟩
  unfold completeWrite
  simp only [present]
  rw [if_pos size, hs, State.writeSector_valid h valid]

/-! ## What an instruction did -/

/-- The instruction carries the command byte `c`: as the command itself, or as a write of the byte to offset 0x0. -/
def CarriesCommand (i : Instr) (c : Byte) : Prop := encode i = [c] ∨ i = .wrCommand c

/-- What the instruction `i` did in the state `s`, if it answered a next state: a command byte was rejected, forced an
interrupt, or was accepted; status was read; the data register was accessed, moving a byte or not; or a register access
moved no transfer byte. -/
inductive ExecResult (s : State) : Instr → State → Prop
  | rejected {i : Instr} {c : Byte} (busy : s.busy = true) (carries : CarriesCommand i c) : ExecResult s i s
  | forced {i : Instr} {c : Byte} (force : commandClass c = .forceInterrupt) (carries : CarriesCommand i c) :
      ExecResult s i (forceInterrupt (c.getLsbD 3) (s.accept c))
  | accepted {i : Instr} {c : Byte} {t : State} (idle : s.busy = false) (notE : commandClass c ≠ .reservedE)
      (notF : commandClass c ≠ .reservedF) (carries : CarriesCommand i c)
      (result : CommandResult c (s.accept c) t) : ExecResult s i t
  | statusRead : ExecResult s .rdStatus (State.deliver { s with irq := false } s.status)
  | byteRead (pending : s.readPending = true) :
      ExecResult s .rdData ((moveByteOut s).deliver (s.stageByte s.xoff))
  | drRead : ExecResult s .rdData (s.deliver s.dr)
  | byteWritten (d : Byte) (pending : s.writePending = true) : ExecResult s (.wrData d) (moveByteIn { s with dr := d })
  | drWritten (d : Byte) : ExecResult s (.wrData d) { s with dr := d }
  | register {i : Instr} (tr sr : Byte) (sel : Option Drive) (dens : Bool) (out : Option Byte)
      (control : (∀ d, i ≠ .wrControl d) → sel = s.sel ∧ dens = s.dens) :
      ExecResult s i { s with tr := tr, sr := sr, sel := sel, dens := dens, busOut := out }

theorem exec_wrCommand_result {s t : State} {i : Instr} {c : Byte} (carries : CarriesCommand i c)
    (h : exec (.wrCommand c) s = .next t) : ExecResult s i t := by
  rcases exec_wrCommand_next h with ⟨busy, -, rfl⟩ | ⟨acc, rfl⟩
  · exact .rejected busy carries
  · by_cases force : commandClass c = .forceInterrupt
    · exact commandRule_forceInterrupt force _ ▸ .forced force carries
    · obtain ⟨idle, notE, notF⟩ := acc.resolve_left force
      exact .accepted idle notE notF carries (commandRule_result acc force _)

theorem exec_command_result {s t : State} {i : Instr} {c : Byte} (frame : encode i = [c]) (h : exec i s = .next t) :
    ExecResult s i t :=
  exec_wrCommand_result (.inl frame) (exec_command frame s ▸ h)

theorem exec_result {i : Instr} {s t : State} (h : exec i s = .next t) : ExecResult s i t := by
  cases i
  case restore | seek | step | stepIn | stepOut | readSector | writeSector | readAddress | forceInterrupt | reservedE |
      reservedF => exact exec_command_result rfl h
  case wrCommand c => exact exec_wrCommand_result (.inr rfl) h
  case rdStatus => cases h; exact .statusRead
  case rdData =>
    rcases execRdData_cases s with ⟨pending, e⟩ | ⟨-, e⟩ <;> cases e.symm.trans h
    · exact .byteRead pending
    · exact .drRead
  case wrData d =>
    rcases execWrData_cases d s with ⟨pending, e⟩ | ⟨-, e⟩ <;> cases e.symm.trans h
    · exact .byteWritten d pending
    · exact .drWritten d
  case wrTrack d => cases (exec_wrTrack d s).symm.trans h; exact .register _ _ _ _ _ fun _ => ⟨rfl, rfl⟩
  case wrSector d => cases (exec_wrSector d s).symm.trans h; exact .register _ _ _ _ _ fun _ => ⟨rfl, rfl⟩
  case wrControl d => cases h; exact .register _ _ _ _ _ fun no => absurd rfl (no d)
  case rdTrack | rdSector | wrUnused | rdUnused | rdId => cases h; exact .register _ _ _ _ _ fun _ => ⟨rfl, rfl⟩

/-- The frame of an instruction that carries a command byte carries the byte. -/
theorem CarriesCommand.frame {i : Instr} {c : Byte} (h : CarriesCommand i c) {f : List Byte}
    (decoded : decode f = .ok i) : CommandFrame f c := by
  obtain ⟨rfl, -⟩ := decodedFrameIsTheEncoding f i decoded
  exact h.imp_right fun e => congrArg encode e

end Sys2Proof.Machine
end

section
/-! The invariant (spec/10_state.md R41): it holds at reset, and every step keeps it. It falls into what a unit and the
staging buffer keep whatever the transfer does (`StoreOk`), and two shapes of the rest, idle and armed. -/

namespace Sys2Proof.Machine

/-- The part of the invariant that does not speak of the transfer: the buffer's length, and each unit's head and image. -/
abbrev State.StoreOk (s : State) : Prop :=
  s.stage.length = Config.maxSecSize ∧ ∀ u, s.HeadOk u ∧ s.imageOk u = true

theorem State.Inv.storeOk {s : State} (h : s.Inv) : s.StoreOk := by
  obtain ⟨-, -, -, stage, ⟨head0, head1⟩, image0, image1⟩ := h
  refine ⟨stage, fun u => ?_⟩
  cases u
  case unit0 => exact ⟨head0, image0⟩
  case unit1 => exact ⟨head1, image1⟩

/-- An idle state with the transfer fields clear. -/
abbrev State.IsIdle (s : State) : Prop :=
  s.busy = false ∧ s.drq = false ∧ s.act = .none ∧ s.xoff = 0 ∧ s.xcnt = 0

/-- A state with a transfer of a lawful count armed, no error and no interrupt. -/
abbrev State.IsArmed (s : State) : Prop :=
  s.busy = true ∧ s.drq = true ∧ s.act ≠ .none ∧ s.countOk = true ∧ s.xoff < s.xcnt ∧ s.err = none ∧ s.irq = false

theorem State.inv_of_isIdle {s : State} (store : s.StoreOk) (idle : s.IsIdle) : s.Inv := by
  obtain ⟨busy, drq, act, xoff, xcnt⟩ := idle
  refine ⟨?sequencer, ?count, ?outcome, store.1, ⟨(store.2 _).1, (store.2 _).1⟩, (store.2 _).2, (store.2 _).2⟩
  case sequencer => exact ⟨by simp [busy, act], drq.trans busy.symm, by simp [busy], fun _ => ⟨xoff, xcnt⟩⟩
  case count => simp [State.countOk, act]
  case outcome => exact fun executing => absurd executing (by simp [busy])

/-- Every lawful count fits the staging buffer (R32, R33). -/
theorem State.countOk_le {s : State} (act : s.act ≠ .none) (h : s.countOk = true) : s.xcnt ≤ Config.maxSecSize := by
  have sector : 1024 = s.xcnt → s.xcnt ≤ Config.maxSecSize := fun e => e ▸ le_refl _
  unfold State.countOk at h
  cases ha : s.act <;> simp only [ha] at act h
  case none => exact absurd rfl act
  case readAddress => rw [of_decide_eq_true h]; decide
  case readSector | writeSector => exact sector (by simpa [Config.geometryTable] using h)

theorem State.inv_of_isArmed {s : State} (store : s.StoreOk) (armed : s.IsArmed) : s.Inv := by
  obtain ⟨busy, drq, act, count, offset, err, irq⟩ := armed
  have fits := State.countOk_le act count
  refine ⟨?sequencer, count, ?outcome, store.1, ⟨(store.2 _).1, (store.2 _).1⟩, (store.2 _).2, (store.2 _).2⟩
  case sequencer =>
    exact ⟨by simp [busy, act], drq.trans busy.symm, fun _ => ⟨offset, fits⟩, fun idle => absurd idle (by simp [busy])⟩
  case outcome => exact fun _ => ⟨err, irq⟩

/-! ## Images of the one geometry -/

theorem Image.ok_iff (im : Image) :
    im.ok = true ↔ (im.secSize = 1024 ∧ im.secCount = 5 ∧ im.trackCount = 40) ∧ im.bytes.wf = true ∧
      ∀ c ∈ im.bytes, c.1 < im.size := by
  simp [Image.ok, Config.geometryTable, Image.hasGeometry, and_assoc]

/-- A store of bytes within the size keeps an image as R40 has it. -/
theorem Image.ok_write {im : Image} (h : im.ok = true) {a : Nat} {vs : List Byte} (fits : a + vs.length ≤ im.size) :
    (im.write a vs).ok = true := by
  obtain ⟨geometry, wf, within⟩ := im.ok_iff.mp h
  refine (Image.ok_iff _).mpr ⟨geometry, Memory.store_wf wf a vs, fun c hc => ?_⟩
  rw [Image.size_write]
  rcases Memory.mem_store hc with old | ⟨-, below, -⟩
  · exact within c old
  · omega

theorem State.imageOk_iff (s : State) (u : Drive) : s.imageOk u = true ↔ ∀ im, s.img u = some im → im.ok = true := by
  unfold State.imageOk
  cases s.img u <;> simp

theorem State.StoreOk.image {s : State} (h : s.StoreOk) {u : Drive} {im : Image} (present : s.img u = some im) :
    im.ok = true := (s.imageOk_iff u).mp (h.2 u).2 im present

/-- With an image of the one geometry, as with none, a head has 40 positions (R141, D12). -/
theorem State.limit_of_imageOk {s : State} {u : Drive} (h : s.imageOk u = true) : s.limit u = 40 := by
  unfold State.limit
  cases hi : s.img u with
  | none => rfl
  | some im => exact ((im.ok_iff).mp ((s.imageOk_iff u).mp h im hi)).1.2.2

theorem State.storeOk_iff (s : State) :
    s.StoreOk ↔ s.stage.length = Config.maxSecSize ∧ ∀ u, (s.head u).toNat < 40 ∧ s.imageOk u = true := by
  refine and_congr_right fun _ => forall_congr' fun u => and_congr_left fun h => ?_
  rw [State.HeadOk, State.limit_of_imageOk h]

/-! ## What keeps the buffer and the units -/

theorem State.StoreOk.setImg {s : State} (h : s.StoreOk) (u : Drive) {x : Option Image}
    (ok : ∀ im, x = some im → im.ok = true) : (s.setImg u x).StoreOk := by
  rw [State.storeOk_iff] at h ⊢
  refine ⟨h.1, fun v => ⟨(h.2 v).1, (State.imageOk_iff _ v).mpr fun im => ?_⟩⟩
  rw [State.img_setImg]
  split_ifs
  · exact ok im
  · exact (s.imageOk_iff v).mp (h.2 v).2 im

theorem State.StoreOk.setHead {s : State} (h : s.StoreOk) (u : Drive) {x : Byte} (onTrack : x.toNat < 40) :
    (s.setHead u x).StoreOk := by
  rw [State.storeOk_iff] at h ⊢
  refine ⟨h.1, fun v => ⟨?_, (h.2 v).2⟩⟩
  rw [State.head_setHead]
  split_ifs
  · exact onTrack
  · exact (h.2 v).1

theorem State.StoreOk.moveHead {s : State} (h : s.StoreOk) {f : Drive → Byte}
    (onTrack : ∀ u, s.HeadOk u → (f u).toNat < s.limit u) : State.StoreOk { s with heads := s.moveHead f } := by
  refine ⟨h.1, fun u => ⟨?_, (h.2 u).2⟩⟩
  change ((s.moveHead f).get u).toNat < s.limit u
  rw [State.get_moveHead]
  split_ifs
  · exact onTrack u (h.2 u).1
  · exact (h.2 u).1

theorem State.StoreOk.fillStage {s : State} (h : s.StoreOk) {vs : List Byte} (fits : vs.length ≤ Config.maxSecSize) :
    (s.fillStage vs).StoreOk := by
  refine ⟨?_, h.2⟩
  have := h.1
  simp only [State.fillStage_stage, List.length_append, List.length_drop]
  omega

theorem State.StoreOk.setStage {s : State} (h : s.StoreOk) (i : Nat) (v : Byte) : (s.setStage i v).StoreOk :=
  ⟨(List.length_set ..).trans h.1, h.2⟩

/-! ## The commands and the data register -/

/-- The result of an accepted command meets the invariant. -/
theorem CommandResult.inv {c : Byte} {s t : State} (h : CommandResult c s t) (store : s.StoreOk) (err : s.err = none)
    (irq : s.irq = false) : t.Inv := by
  cases h
  case positioned onTrack => exact State.inv_of_isIdle (store.moveHead onTrack) ⟨rfl, rfl, rfl, rfl, rfl⟩
  case faulted => exact State.inv_of_isIdle store ⟨rfl, rfl, rfl, rfl, rfl⟩
  case reading m d im a present =>
    obtain ⟨⟨size, -⟩, -⟩ := im.ok_iff.mp (store.image present)
    refine State.inv_of_isArmed (store.fillStage ?_) ⟨rfl, rfl, Act.noConfusion, ?_, ?_, err, irq⟩
    · simp [size, Config.maxSecSize]
    · simp [State.countOk, Config.geometryTable, size]
    · simp [size]
  case writing m d im present =>
    obtain ⟨⟨size, -⟩, -⟩ := im.ok_iff.mp (store.image present)
    refine State.inv_of_isArmed store ⟨rfl, rfl, Act.noConfusion, ?_, ?_, err, irq⟩
    · simp [State.countOk, Config.geometryTable, size]
    · simp [size]
  case addressing d im =>
    refine State.inv_of_isArmed (store.fillStage ?_) ⟨rfl, rfl, Act.noConfusion, rfl, ?_, err, irq⟩
    · simp [State.descriptor, Config.maxSecSize]
    · simp [Config.raLen]

/-- What a completion needs of the state it completes in. -/
abbrev State.Completing (s : State) : Prop := s.StoreOk ∧ s.err = none ∧ s.irq = false

theorem terminate_inv {s : State} (h : s.StoreOk) : s.terminate.Inv := State.inv_of_isIdle h ⟨rfl, rfl, rfl, rfl, rfl⟩

theorem raise_inv {s : State} (h : s.StoreOk) (f : ControllerFault) : (s.raise f).Inv :=
  State.inv_of_isIdle h ⟨rfl, rfl, rfl, rfl, rfl⟩

/-- The advance faults, or re-arms in a state with another address: an arming that keeps the invariant makes it keep it. -/
theorem advanceAndRearm_inv {rearm : State → State} (arming : ∀ z, z.Completing → (rearm z).Inv) {s : State}
    (h : s.Completing) : (advanceAndRearm rearm s).Inv := by
  cases hi : s.selImage with
  | none => rw [advanceAndRearm_absent hi]; exact raise_inv h.1 _
  | some im =>
    obtain ⟨tr, sr, e⟩ := s.advance_exists im.secCount
    rw [advanceAndRearm_present hi, e]
    exact arming _ h

theorem armSectorRead_inv (m : Bool) (s : State) (h : s.Completing) : (armSectorRead m s).Inv :=
  (armSectorRead_result 0 m s).inv h.1 h.2.1 h.2.2

theorem armSectorWrite_inv (m : Bool) (s : State) (h : s.Completing) : (armSectorWrite m s).Inv :=
  (armSectorWrite_result 0 m s).inv h.1 h.2.1 h.2.2

theorem completeRead_inv {s : State} (h : s.Completing) : (completeRead s).Inv := by
  by_cases multi : s.act = .readSector true
  · rw [completeRead_multi multi]; exact advanceAndRearm_inv (armSectorRead_inv true) h
  · rw [completeRead_single multi]; exact terminate_inv h.1

theorem afterCommit_inv {s : State} (h : s.Completing) : (afterCommit s).Inv := by
  by_cases multi : s.act = .writeSector true
  · rw [afterCommit_multi multi]; exact advanceAndRearm_inv (armSectorWrite_inv true) h
  · rw [afterCommit_single multi]; exact terminate_inv h.1

/-- The commit stores a sector of a valid address, so within the image's size (R66). -/
theorem completeWrite_inv {s : State} (h : s.Completing) : (completeWrite s).Inv := by
  rcases completeWrite_cases s with ⟨f, e⟩ | ⟨u, im, -, present, size, valid, e⟩ <;> rw [e]
  · exact raise_inv h.1 f
  · refine afterCommit_inv ⟨h.1.setImg u ?_, h.2⟩
    rintro _ ⟨⟩
    refine Image.ok_write (h.1.image present) ?_
    have := Image.lin_add_le_size valid
    have := List.length_take_le s.xcnt s.stage
    omega

/-- While data is requested a command executes; its offset may go on by one, if the byte was not the last. -/
theorem State.Inv.completing {s : State} (h : s.Inv) (drq : s.drq = true) : s.Completing ∧
    (s.busy = true ∧ s.act ≠ .none ∧ s.xoff < s.xcnt) := by
  have store := h.storeOk
  obtain ⟨⟨busyAct, drqBusy, offset, -⟩, -, outcome, -⟩ := h
  have busy : s.busy = true := drqBusy ▸ drq
  exact ⟨⟨store, outcome busy⟩, busy, busyAct.mp busy, (offset busy).1⟩

theorem moveByteOut_inv {s : State} (h : s.Inv) (drq : s.drq = true) : (moveByteOut s).Inv := by
  obtain ⟨completing, busy, act, offset⟩ := h.completing drq
  by_cases last : s.xoff + 1 = s.xcnt
  · rw [moveByteOut_last last]; exact completeRead_inv completing
  · rw [moveByteOut_mid last]
    exact State.inv_of_isArmed completing.1 ⟨busy, drq, act, h.2.1, Nat.lt_of_le_of_ne offset last, completing.2⟩

theorem moveByteIn_inv {s : State} (h : s.Inv) (drq : s.drq = true) : (moveByteIn s).Inv := by
  obtain ⟨completing, busy, act, offset⟩ := h.completing drq
  have store := completing.1.setStage s.xoff s.dr
  by_cases last : s.xoff + 1 = s.xcnt
  · rw [moveByteIn_last last]; exact completeWrite_inv ⟨store, completing.2⟩
  · rw [moveByteIn_mid last]
    exact State.inv_of_isArmed store ⟨busy, drq, act, h.2.1, Nat.lt_of_le_of_ne offset last, completing.2⟩

/-! ## Instructions, host events, steps -/

theorem State.Inv.clearIrq {s : State} (h : s.Inv) : State.Inv { s with irq := false } := by
  obtain ⟨sequencer, count, outcome, rest⟩ := h
  exact ⟨sequencer, count, fun busy => ⟨(outcome busy).1, rfl⟩, rest⟩

theorem ExecResult.inv {i : Instr} {s t : State} (r : ExecResult s i t) (h : s.Inv) : t.Inv := by
  cases r
  case rejected => exact h
  case forced => exact State.inv_of_isIdle h.storeOk ⟨rfl, rfl, rfl, rfl, rfl⟩
  case accepted result => exact result.inv h.storeOk rfl rfl
  case statusRead => exact h.clearIrq
  case byteRead pending => exact moveByteOut_inv h (s.readPending_iff.mp pending).1
  case drRead => exact h
  case byteWritten pending => exact moveByteIn_inv (s := { s with dr := _ }) h (s.writePending_iff.mp pending).1
  case drWritten => exact h
  case register => exact h

/-- Settles O46: reset is idle, with both units empty. -/
theorem invariantHoldsAtReset : Obligations.InvariantHoldsAtReset := by
  refine State.inv_of_isIdle ⟨List.length_replicate, fun u => ?_⟩ ⟨rfl, rfl, rfl, rfl, rfl⟩
  cases u <;> exact ⟨by decide, rfl⟩

/-- The invariant with another buffer, other heads and other images, themselves as they should be. -/
theorem State.Inv.replaceStore {s : State} (h : s.Inv) {stage : List Byte} {heads : PerDrive Byte}
    {imgs : PerDrive (Option Image)} (store : State.StoreOk { s with stage := stage, heads := heads, imgs := imgs }) :
    State.Inv { s with stage := stage, heads := heads, imgs := imgs } := by
  obtain ⟨sequencer, count, outcome, -⟩ := h
  exact ⟨sequencer, count, outcome, store.1, ⟨(store.2 _).1, (store.2 _).1⟩, (store.2 _).2, (store.2 _).2⟩

theorem clampHead_lt (h : Byte) : (clampHead h 40).toNat < 40 := toNat_ofNat_clamp_lt (by decide)

theorem hostAttach_inv {u : Drive} {file : List Run} {s t : State} (h : s.Inv) (ran : hostAttach u file s = .next t) :
    t.Inv := by
  obtain ⟨-, ⟨-, rfl⟩ | ⟨size, rfl⟩⟩ := hostAttach_cases ran
  · exact h
  · refine h.replaceStore ((h.storeOk.setImg u ?_).setHead u (clampHead_lt _))
    rintro _ ⟨⟩
    exact Image.ofFile_ok (geometryFor_eq_some.mpr ⟨size, rfl⟩)

theorem runInput_inv {inp : Input} {s t : State} (h : s.Inv) (ran : runInput inp s = .next t) : t.Inv := by
  cases inp
  case bus f =>
    obtain ⟨i, -, executed⟩ := runInput_bus ran
    exact (exec_result executed).inv h
  case init => cases ran; exact invariantHoldsAtReset
  case attach u file => exact hostAttach_inv h ran
  case detach u => cases ran; exact h.replaceStore (h.storeOk.setImg u fun _ none => nomatch none)

/-- Settles O47: taking the input leaves the invariant alone, and each kind of input, run, keeps it. -/
theorem everyStepKeepsTheInvariant : Obligations.EveryStepKeepsTheInvariant := by
  intro s t h stepped
  rcases step_cases stepped with ⟨-, rfl⟩ | ⟨inp, rest, -, ran⟩
  · exact h
  · exact runInput_inv (s := s.begin rest) h ran

end Sys2Proof.Machine
end

section
/-! The status byte and the control byte (spec/45_status.md, spec/30_encoding.md R110). -/

namespace Sys2Proof.Machine

/-! ## The status byte (R211 to R216) -/

/-- The status byte of four flags: not ready, record not found, track 0, busy. -/
def statusByte (notReady notFound trackZero busy : Bool) : Byte :=
  BitVec.ofBool notReady ++ 0b00#2 ++ BitVec.ofBool notFound ++ 0b0#1 ++ BitVec.ofBool trackZero ++ 0b0#1 ++
    BitVec.ofBool busy

theorem State.status_eq (s : State) : s.status = statusByte s.notReady s.recordNotFound s.trackZero s.busy := rfl

theorem statusByte_bits : ∀ n r z b : Bool, let v := statusByte n r z b
    v.getLsbD 7 = n ∧ v.getLsbD 6 = false ∧ v.getLsbD 5 = false ∧ v.getLsbD 4 = r ∧ v.getLsbD 3 = false ∧
      v.getLsbD 2 = z ∧ v.getLsbD 1 = false ∧ v.getLsbD 0 = b := by decide

/-- Where busy and record-not-found do not show together, the byte is one of R217's twelve. -/
theorem statusByte_mem_twelve : ∀ n r z b : Bool, (b = true → r = false) → statusByte n r z b ∈
    [0x00#8, 0x01#8, 0x04#8, 0x05#8, 0x10#8, 0x14#8, 0x80#8, 0x84#8, 0x90#8, 0x94#8, 0x81#8, 0x85#8] := by decide

theorem State.notReady_iff (s : State) : s.notReady = true ↔ ∀ u, s.sel = some u → s.img u = none := by
  rw [State.notReady, Option.isNone_iff_eq_none, State.selImage_eq_none_iff]

theorem State.recordNotFound_iff (s : State) : s.recordNotFound = true ↔ s.err = some .recordNotFound := by
  simp [State.recordNotFound]

theorem State.trackZero_iff (s : State) : s.trackZero = true ↔ s.AtTrackZero := by
  unfold State.trackZero State.AtTrackZero
  cases s.sel <;> simp

theorem exec_rdStatus (s : State) :
    exec .rdStatus s = .next { s with irq := false, busOut := some s.status } := rfl

/-- Settles O13: the bits of the status byte are its four flags, each read off the state. -/
theorem statusReadComputesEachBit : Obligations.StatusReadComputesEachBit := by
  intro s
  obtain ⟨b7, b6, b5, b4, b3, b2, b1, b0⟩ :=
    statusByte_bits s.notReady s.recordNotFound s.trackZero s.busy
  refine ⟨_, s.status, exec_rdStatus s, rfl, State.sameBytes_of_imgs rfl, ?_, b6, b5, ?_, b3, ?_, b1, b0⟩
  · rw [State.status_eq, b7, State.notReady_iff]
  · rw [State.status_eq, b4, State.recordNotFound_iff]
  · rw [State.status_eq, b2, State.trackZero_iff]

/-- Settles O14: while busy the invariant has no error latched, which leaves twelve of the sixteen combinations. -/
theorem statusValueIsOneOfTwelve : Obligations.StatusValueIsOneOfTwelve := by
  rintro s ⟨-, -, outcome, -⟩
  refine ⟨_, s.status, exec_rdStatus s, rfl, statusByte_mem_twelve _ _ _ _ fun busy => ?_⟩
  simp [State.recordNotFound, (outcome busy).1]

/-! ## The control byte -/

/-- CTRL_DECODE's selection (R110) is decided by bits 2 and 1 together. -/
theorem ctrlSelect_eq : ∀ d : Byte, ctrlSelect d =
    if d.extractLsb' 1 2 = 0b01#2 then some .unit0 else if d.extractLsb' 1 2 = 0b10#2 then some .unit1 else none := by
  decide

/-- Settles O12: the selection is CTRL_DECODE of the byte and the density its bit 0. -/
theorem controlWriteSelectsUnitAndDensity : Obligations.ControlWriteSelectsUnitAndDensity := by
  intro s d
  refine ⟨{ s with sel := ctrlSelect d, dens := ctrlDensity d }, rfl, ?_, State.sameBytes_of_imgs rfl⟩
  rw [ctrlSelect_eq]
  rfl

end Sys2Proof.Machine
end

section
/-! Steps and host events (spec/20_memory.md R73, spec/70_reset_and_hazards.md). -/

namespace Sys2Proof.Machine

/-! ## A step of a transaction, and of nothing -/

/-- Settles O6: the step runs the frame, and the frame runs as the instruction it decodes to. -/
theorem stepRunsTheDecodedInstruction : Obligations.StepRunsTheDecodedInstruction := by
  intro s f rest i script decoded _
  rw [step_of_script script]
  simp only [runInput, decoded]
  rfl

/-- Settles O7: the step of an empty script. -/
theorem stepWithoutInputChangesNothing : Obligations.StepWithoutInputChangesNothing := fun _ => step_of_empty

/-! ## Reset and Init -/

/-- Settles O40: the fields as they are defined, and the four flags of the status byte at their reset values. -/
theorem resetLeavesTheIdleState : Obligations.ResetLeavesTheIdleState := ⟨rfl, rfl⟩

/-- Settles O41: Init runs in the state that has taken it from the script, and keeps that script. -/
theorem initGivesTheResetState : Obligations.InitGivesTheResetState := by
  intro s rest script
  rw [step_of_script script]
  rfl

theorem State.reset_img (u : Drive) : State.reset.img u = none := by cases u <;> rfl

theorem State.status_notReady {s : State} (h : ∀ u, s.sel = some u → s.img u = none) : s.status.getLsbD 7 = true := by
  rw [State.status_eq, (statusByte_bits ..).1]
  exact s.notReady_iff.mpr h

theorem State.status_busy (s : State) : s.status.getLsbD 0 = s.busy := by
  obtain ⟨-, -, -, -, -, -, -, b0⟩ := statusByte_bits s.notReady s.recordNotFound s.trackZero s.busy
  exact b0

/-- Settles O42: after Init both units are empty and stay so through the control write, whichever it selects. -/
theorem bothDrivesNotReadyAfterInit : Obligations.BothDrivesNotReadyAfterInit := by
  intro s rest z d script stepped
  obtain rfl := Host.Outcome.next.inj ((initGivesTheResetState s rest script).symm.trans stepped)
  exact ⟨_, _, _, rfl, exec_rdStatus _, rfl, State.status_notReady fun u _ => State.reset_img u, State.status_busy _⟩

/-! ## Attach and Detach -/

theorem hostAttach_occupied {s : State} {u : Drive} (h : s.img u ≠ none) (file : List Run) :
    hostAttach u file s = .refused (.attachOccupied u) := by
  obtain ⟨im, present⟩ := Option.ne_none_iff_exists'.mp h
  simp [hostAttach, present]

theorem hostAttach_unlisted {s : State} {u : Drive} {file : List Run} (h : s.img u = none)
    (size : fileSize file ≠ 204800) : hostAttach u file s = .next s := by
  have unlisted : geometryFor (fileSize file) = none :=
    Option.eq_none_iff_forall_ne_some.mpr fun g hg => size (geometryFor_eq_some.mp hg).1
  simp [hostAttach, h, unlisted]

theorem hostAttach_listed {s : State} {u : Drive} {file : List Run} (h : s.img u = none)
    (size : fileSize file = 204800) : hostAttach u file s =
      .next ((s.setImg u (some (Image.ofFile ⟨204800, 1024, 5, 40⟩ file))).setHead u (clampHead (s.head u) 40)) := by
  simp [hostAttach, h, geometryFor_eq_some.mpr ⟨size, rfl⟩]

/-- Settles O44: the premise on the unit comes first; then no entry of the table has the size. -/
theorem attachOutsideItsPremises : Obligations.AttachOutsideItsPremises := by
  intro s u file rest script
  rw [step_of_script script]
  exact ⟨fun occupied => hostAttach_occupied (s := s.begin rest) occupied file,
    fun empty size => hostAttach_unlisted (s := s.begin rest) empty size⟩

/-- The bytes of a unit that holds an attached file are the file's, and there is none beyond it (R256). -/
theorem State.byteAt_ofFile {s : State} {u : Drive} {file : List Run} (size : fileSize file = 204800)
    (h : s.img u = some (Image.ofFile ⟨204800, 1024, 5, 40⟩ file)) (a : Nat) : s.byteAt u a = fileByte file a := by
  have within := fileByte_isSome file a
  have read := read_fileMemory file 0 a
  rw [Nat.zero_add] at read
  rw [State.byteAt_of_img h, Image.size_of_geometry rfl rfl rfl]
  split_ifs with below
  · rw [size, decide_eq_true below] at within
    obtain ⟨b, hb⟩ := Option.isSome_iff_exists.mp within
    rw [hb] at read ⊢
    exact congrArg some read
  · rw [size, decide_eq_false below] at within
    exact (Option.isNone_iff_eq_none.mp (by simpa using within)).symm

theorem clampHead_toNat (h : Byte) : (clampHead h 40).toNat = min h.toNat 39 := by
  rw [clampHead, BitVec.toNat_ofNat]
  omega

/-- Settles O43: the image takes the table's one geometry and the file's bytes, and the head is clamped. -/
theorem attachPutsTheFileInTheUnit : Obligations.AttachPutsTheFileInTheUnit := by
  intro s u file rest script empty size
  have attached := hostAttach_listed (s := s.begin rest) empty size
  have image : ((s.begin rest).setImg u (some (Image.ofFile ⟨204800, 1024, 5, 40⟩ file))).img u =
      some (Image.ofFile ⟨204800, 1024, 5, 40⟩ file) := by simp [State.img_setImg]
  refine ⟨_, Image.ofFile ⟨204800, 1024, 5, 40⟩ file, (step_of_script script).trans attached, rfl, image, rfl, rfl, rfl,
    rfl, State.byteAt_ofFile size image, ?clamped, fun v hv => ⟨?otherImage, ?otherHead⟩⟩
  case clamped => rw [State.head_setHead, if_pos rfl]; exact clampHead_toNat _
  case otherImage => exact PerDrive.get_set_other _ _ hv
  case otherHead => exact PerDrive.get_set_other _ _ hv

/-- Settles O45: the unit's image is none after, so not ready shows if it is the selected one. -/
theorem detachEmptiesTheUnit : Obligations.DetachEmptiesTheUnit := by
  intro s u rest script
  refine ⟨_, step_of_script script, rfl, PerDrive.get_set_same .., fun v hv => PerDrive.get_set_other _ _ hv,
    fun selected => State.status_notReady fun v hv => ?_⟩
  obtain rfl : u = v := Option.some.inj (selected.symm.trans hv)
  exact PerDrive.get_set_same ..

end Sys2Proof.Machine
end

section
/-! Sectors in their image (spec/20_memory.md R66). -/

namespace Sys2Proof.Machine

theorem Image.hasSector_false_of_not_valid {im : Image} {tr sr : Byte} (h : ¬ im.Valid tr sr) :
    im.hasSector tr.toNat sr.toNat = false :=
  Bool.eq_false_iff.mpr fun valid => h ((im.hasSector_iff _ _).mp valid)

/-- A sector ends at or before one that comes later, by track and then by number, begins. -/
theorem Image.lin_add_le_lin {im : Image} {t n t' n' : Nat} (h1 : 1 ≤ n) (hn : n ≤ im.secCount) (h1' : 1 ≤ n')
    (later : t < t' ∨ t = t' ∧ n < n') : im.lin t n + im.secSize ≤ im.lin t' n' := by
  have index : t * im.secCount + (n - 1) + 1 ≤ t' * im.secCount + (n' - 1) := by
    rcases later with track | ⟨rfl, number⟩
    · have := Nat.mul_le_mul_right im.secCount (Nat.succ_le_of_lt track)
      rw [Nat.succ_mul] at this
      omega
    · omega
  calc im.lin t n + im.secSize = (t * im.secCount + (n - 1) + 1) * im.secSize := (Nat.succ_mul _ _).symm
    _ ≤ im.lin t' n' := Nat.mul_le_mul_right _ index

/-- Settles O39: of two different addresses one comes later. -/
theorem sectorsLieWithinTheImageAndApart : Obligations.SectorsLieWithinTheImageAndApart := by
  intro im t n ht h1 hn
  refine ⟨Image.lin_add_le_size ((im.hasSector_iff t n).mpr ⟨ht, h1, hn⟩), fun t' n' _ h1' hn' different => ?_⟩
  have order : (t < t' ∨ t = t' ∧ n < n') ∨ (t' < t ∨ t' = t ∧ n' < n) := by
    rw [Ne, Prod.mk.injEq] at different
    omega
  exact order.imp (Image.lin_add_le_lin h1 hn h1') (Image.lin_add_le_lin h1' hn' h1)

end Sys2Proof.Machine
end

section
/-! The obligations on commands: acceptance (spec/40_register_access.md R121), positioning (spec/41), the disk commands and
Force Interrupt (spec/42, spec/43). -/

namespace Sys2Proof.Machine

/-! ## Acceptance -/

theorem reservedEByte_eq : ∀ x, reservedEByte x = BitVec.ofNat 8 (0xE0 + x.toNat) := by decide

theorem reservedFByte_eq : ∀ x, reservedFByte x = BitVec.ofNat 8 (0xF0 + x.toNat) := by decide

/-- Settles O16: both are reserved writes, of the byte the nibble makes. -/
theorem reservedBytesRefusedIdleRejectedBusy : Obligations.ReservedBytesRefusedIdleRejectedBusy := by
  intro s x
  rw [← reservedEByte_eq, ← reservedFByte_eq]
  exact ⟨rfl, rfl⟩

/-- Settles O17: Force Interrupt leaves the idle state; any other accepted command leaves a `CommandResult`. -/
theorem acceptedCommandEndsIdleOrArmed : Obligations.AcceptedCommandEndsIdleOrArmed := by
  intro s c acc
  refine ⟨_, exec_wrCommand_accepted acc, ?_⟩
  by_cases force : commandClass c = .forceInterrupt
  · rw [commandRule_forceInterrupt force]
    exact ⟨rfl, .inl ⟨rfl, rfl, rfl, rfl, rfl⟩, fun err => absurd rfl err, rfl, rfl, rfl, rfl, State.sameBytes_of_imgs rfl⟩
  · have result := commandRule_result acc force (s.accept c)
    obtain ⟨cr, sr, dr, sel, dens, imgs⟩ := result.frame
    refine ⟨cr, ?ends, ?error, sr, dr, sel, dens, State.sameBytes_of_imgs imgs⟩
    all_goals
      rcases result.ends with ⟨busy, drq, act, xoff, xcnt, irq⟩ | ⟨busy, drq, act, xoff, err, irq⟩
    case ends.inl => exact .inl ⟨busy, drq, act, xoff, xcnt⟩
    case ends.inr => exact .inr ⟨busy, drq, act, xoff, err, irq⟩
    case error.inl => exact fun _ => ⟨busy, irq⟩
    case error.inr => exact fun latched => absurd err latched

theorem toNat_of_reserved : ∀ c : Byte, commandClass c = .reservedE ∨ commandClass c = .reservedF → 0xE0 ≤ c.toNat := by
  decide

theorem exec_wrCommand_total (c : Byte) (s : State) : (∃ z, exec (.wrCommand c) s = .next z) ∨
    (s.busy = false ∧ (commandClass c = .reservedE ∨ commandClass c = .reservedF) ∧
      exec (.wrCommand c) s = .refused (.reservedCommand c)) := by
  rcases s.accepts_cases c with acc | ⟨busy, hf⟩ | ⟨idle, hr⟩
  · exact .inl ⟨_, exec_wrCommand_accepted acc⟩
  · exact .inl ⟨_, exec_wrCommand_busy busy hf⟩
  · exact .inr ⟨idle, hr, exec_wrCommand_refused idle hr⟩

/-- Settles O48: of the writes only a reserved byte's has a refusal, and every other transaction has a next state. -/
theorem everyTransactionCompletesUnlessReserved : Obligations.EveryTransactionCompletesUnlessReserved := by
  intro i s
  cases i
  case wrCommand c =>
    exact (exec_wrCommand_total c s).imp_right fun ⟨idle, hr, e⟩ =>
      ⟨idle, .inr (.inr ⟨c, rfl, toNat_of_reserved c hr⟩), c, e⟩
  case reservedE x =>
    cases busy : s.busy
    · exact .inr ⟨rfl, .inl ⟨x, rfl⟩, _, reservedWrite_idle busy _⟩
    · exact .inl ⟨s, reservedWrite_busy busy _⟩
  case reservedF x =>
    cases busy : s.busy
    · exact .inr ⟨rfl, .inr (.inl ⟨x, rfl⟩), _, reservedWrite_idle busy _⟩
    · exact .inl ⟨s, reservedWrite_busy busy _⟩
  case restore | seek | step | stepIn | stepOut | readSector | writeSector | readAddress =>
    cases busy : s.busy
    · exact .inl ⟨_, commandWrite_idle busy _ _⟩
    · exact .inl ⟨s, commandWrite_busy busy _ _⟩
  case rdData => rcases execRdData_cases s with ⟨-, e⟩ | ⟨-, e⟩ <;> exact .inl ⟨_, e⟩
  case wrData d => rcases execWrData_cases d s with ⟨-, e⟩ | ⟨-, e⟩ <;> exact .inl ⟨_, e⟩
  case wrTrack d => exact .inl ⟨_, exec_wrTrack d s⟩
  case wrSector d => exact .inl ⟨_, exec_wrSector d s⟩
  case forceInterrupt | rdStatus | rdTrack | rdSector | wrUnused | rdUnused | wrControl | rdId => exact .inl ⟨_, rfl⟩

/-! ## Positioning -/

/-- Settles O19: Restore, run in the accepted state. -/
theorem restoreHomesTheSelectedHead : Obligations.RestoreHomesTheSelectedHead := by
  intro s h v r idle
  refine ⟨_, (commandWrite_idle idle _ restore).trans (congrArg _ (restore_eq _)), rfl, rfl, fun u => ?_,
    State.sameBytes_of_imgs rfl⟩
  exact State.get_moveHead (s.accept _) _ u

/-- Settles O20: Seek, run in the accepted state. -/
theorem seekGoesToTheTrackInDR : Obligations.SeekGoesToTheTrackInDR := by
  intro s h v r idle
  refine ⟨_, (commandWrite_idle idle _ seek).trans (congrArg _ (seek_eq _)), rfl, rfl, fun u => ?_,
    State.sameBytes_of_imgs rfl⟩
  exact State.get_moveHead (s.accept _) _ u

/-- Settles O21: the three step commands end in the same state of their direction. -/
theorem stepFamilyMovesTheHeadByOne : Obligations.StepFamilyMovesTheHeadByOne := by
  intro s d t h v r i idle form
  have stepped : ∃ c, encode i = [c] ∧ exec i s = .next (stepToward d t (s.accept c)) := by
    rcases form with ⟨rfl, rfl⟩ | ⟨rfl, rfl⟩ | ⟨rfl, rfl⟩ <;> exact ⟨_, rfl, commandWrite_idle idle _ _⟩
  obtain ⟨c, frame, e⟩ := stepped
  refine ⟨_, e.trans (congrArg _ (stepToward_eq d t _)), frame, rfl, ?track, fun u => ?head, State.sameBytes_of_imgs rfl⟩
  case track => cases t <;> cases d <;> rfl
  case head => exact State.get_moveHead (s.accept c) _ u

/-! ## Disk commands -/

/-- Past the bytes a fill puts in front, the buffer is as before. -/
theorem State.fillStage_getElem?_of_le (s : State) {vs : List Byte} {k : Nat} (h : vs.length ≤ k) :
    (s.fillStage vs).stage[k]? = s.stage[k]? := by
  rw [State.fillStage_stage, List.getElem?_append_right h, List.getElem?_drop]
  congr 1
  omega

theorem State.fillStage_getElem?_of_lt (s : State) {vs : List Byte} {k : Nat} (h : k < vs.length) :
    (s.fillStage vs).stage[k]? = vs[k]? :=
  List.getElem?_append_left h

/-- Settles O22: the arming of the valid address stages the load of its sector. -/
theorem readSectorStagesTheAddressedSector : Obligations.ReadSectorStagesTheAddressedSector := by
  intro s m l e u x d im idle sel present valid
  have armed := armSectorRead_valid (s := s.accept (readSectorByte m l e u x)) sel present
    ((im.hasSector_iff _ _).mpr valid) m
  refine ⟨_, (commandWrite_idle idle _ _).trans (congrArg _ armed), rfl, rfl, fun k hk => ?_, fun k hk => ?_,
    State.sameBytes_of_imgs rfl⟩
  · exact (State.fillStage_getElem?_of_lt _ (by simpa using hk)).trans (Memory.load_getElem? _ _ _ _ hk)
  · exact State.fillStage_getElem?_of_le _ (by simpa using hk)

/-- Settles O23: the arming of the valid address. -/
theorem writeSectorArmsWithoutTouchingTheImage : Obligations.WriteSectorArmsWithoutTouchingTheImage := by
  intro s m l e u a d im idle sel present valid
  have armed := armSectorWrite_valid (s := s.accept (writeSectorByte m l e u a)) sel present
    ((im.hasSector_iff _ _).mpr valid) m
  exact ⟨_, (commandWrite_idle idle _ _).trans (congrArg _ armed), rfl, rfl, State.sameBytes_of_imgs rfl⟩

/-- The length code of the four sector sizes that have one (R181). -/
theorem lengthCode_pow : ∀ n ≤ 3, lengthCode (128 * 2 ^ n) = some (BitVec.ofNat 8 n) := by decide

/-- Settles O24: the descriptor is six bytes long, the fourth the length code where there is one. -/
theorem readAddressStagesTheDescriptor : Obligations.ReadAddressStagesTheDescriptor := by
  intro s a b c e d im idle sel present
  refine ⟨_, (commandWrite_idle idle _ _).trans (congrArg _ (readAddress_present sel present)), rfl, rfl, rfl, rfl, rfl,
    fun n hn size => ?code, ⟨_, _, rfl, rfl⟩, fun k hk => ?rest, State.sameBytes_of_imgs rfl⟩
  case code =>
    change some ((lengthCode im.secSize).getD _) = _
    rw [size, lengthCode_pow n hn]
    rfl
  case rest => exact State.fillStage_getElem?_of_le _ hk

/-- Settles O25: an accepted disk command faults in the check that fails first. -/
theorem diskCommandFaultsEndIdle : Obligations.DiskCommandFaultsEndIdle := by
  intro s i c idle frame
  rw [exec_command frame s]
  refine ⟨fun disk absent => ?_, fun sector u im sel present invalid => ?_⟩
  · have acc : s.Accepts c := .inr ⟨idle, by rcases disk with h | h | h <;> simp [h]⟩
    have faults : commandRule c (s.accept c) = (s.accept c).raise .driveNotReady := by
      rcases disk with h | h | h <;> simp only [commandRule, h]
      · exact armSectorRead_absent (s := s.accept c) absent _
      · exact armSectorWrite_absent (s := s.accept c) absent _
      · exact readAddress_absent (s := s.accept c) absent
    exact ⟨_, (exec_wrCommand_accepted acc).trans (congrArg _ faults), State.sameBytes_of_imgs rfl, rfl⟩
  · have acc : s.Accepts c := .inr ⟨idle, by rcases sector with h | h <;> simp [h]⟩
    have off := Image.hasSector_false_of_not_valid invalid
    have faults : commandRule c (s.accept c) = (s.accept c).raise .recordNotFound := by
      rcases sector with h | h <;> simp only [commandRule, h]
      · exact armSectorRead_invalid (s := s.accept c) sel present off _
      · exact armSectorWrite_invalid (s := s.accept c) sel present off _
    exact ⟨_, (exec_wrCommand_accepted acc).trans (congrArg _ faults), State.sameBytes_of_imgs rfl, rfl⟩

/-- Settles O26: Force Interrupt is accepted in every state and touches the flags alone. -/
theorem forceInterruptIdlesAndKeepsRegisters : Obligations.ForceInterruptIdlesAndKeepsRegisters :=
  fun _ _ _ _ _ => ⟨_, rfl, rfl, rfl, State.sameBytes_of_imgs rfl⟩

end Sys2Proof.Machine
end

section
/-! The obligations on the data register (spec/44_data_transfer.md): one byte moved, the last byte of a sector, and a whole
transfer. -/

namespace Sys2Proof.Machine

/-! ## RD_DATA -/

theorem exec_rdData_pending {s : State} {b : Byte} (drq : s.drq = true)
    (act : s.act = .readAddress ∨ ∃ m, s.act = .readSector m) (staged : s.stage[s.xoff]? = some b) :
    exec .rdData s = .next ((moveByteOut s).deliver b) := by
  rw [← State.stageByte_eq staged]
  rcases execRdData_cases s with ⟨-, e⟩ | ⟨no, -⟩
  · exact e
  · exact absurd (s.readPending_iff.mpr ⟨drq, act⟩) (by simp [no])

/-- The state with the byte `b` latched into DR and the transfer one byte on (R190). -/
def State.latched (s : State) (b : Byte) : State := { s with dr := b, xoff := s.xoff + 1 }

theorem exec_rdData_mid {s : State} {b : Byte} (drq : s.drq = true)
    (act : s.act = .readAddress ∨ ∃ m, s.act = .readSector m) (staged : s.stage[s.xoff]? = some b)
    (notLast : s.xoff + 1 ≠ s.xcnt) :
    exec .rdData s = .next ((s.latched b).deliver b) := by
  rw [exec_rdData_pending drq act staged, moveByteOut_mid notLast, State.stageByte_eq staged]
  rfl

theorem exec_rdData_last {s : State} {b : Byte} (drq : s.drq = true)
    (act : s.act = .readAddress ∨ ∃ m, s.act = .readSector m) (staged : s.stage[s.xoff]? = some b)
    (last : s.xoff + 1 = s.xcnt) :
    exec .rdData s = .next ((completeRead (s.latched b)).deliver b) := by
  rw [exec_rdData_pending drq act staged, moveByteOut_last last, State.stageByte_eq staged]
  rfl

theorem exec_rdData_last_single {s : State} {b : Byte} (drq : s.drq = true)
    (act : s.act = .readAddress ∨ s.act = .readSector false) (staged : s.stage[s.xoff]? = some b)
    (last : s.xoff + 1 = s.xcnt) :
    exec .rdData s = .next { s with
      dr := b, busOut := some b, irq := true, busy := false, drq := false, act := .none, xoff := 0, xcnt := 0 } := by
  rw [exec_rdData_last drq (act.imp_right fun h => ⟨_, h⟩) staged last,
    completeRead_single (by rcases act with h | h <;> simp [State.latched, h])]
  rfl

/-- Settles O27: the byte is pending and not the last, so nothing completes. -/
theorem dataReadMovesOneByte : Obligations.DataReadMovesOneByte :=
  fun _ _ drq act staged notLast => ⟨_, exec_rdData_mid drq act staged notLast, rfl, State.sameBytes_of_imgs rfl⟩

/-- Settles O28: neither class of transfer advances, so the completion is the end of the command. -/
theorem lastDataReadEndsTheCommand : Obligations.LastDataReadEndsTheCommand :=
  fun _ _ drq act staged last => ⟨_, exec_rdData_last_single drq act staged last, State.sameBytes_of_imgs rfl, rfl⟩

/-- Settles O30: without a request, or in the wrong direction, no byte is pending. -/
theorem dataAccessOutsideATransferOnlyUsesDR : Obligations.DataAccessOutsideATransferOnlyUsesDR := by
  intro s d
  refine ⟨fun outside => ?_, fun outside => ?_⟩
  · have no : ¬ s.readPending = true := by
      rw [s.readPending_iff]
      rintro ⟨drq, act⟩
      rcases act with h | ⟨m, h⟩ <;> simp [drq, h] at outside
    rcases execRdData_cases s with ⟨yes, -⟩ | ⟨-, e⟩
    · exact absurd yes no
    · exact ⟨_, e, rfl, State.sameBytes_of_imgs rfl⟩
  · have no : ¬ s.writePending = true := by
      rw [s.writePending_iff]
      rintro ⟨drq, m, act⟩
      simp [drq, act] at outside
    rcases execWrData_cases d s with ⟨yes, -⟩ | ⟨-, e⟩
    · exact absurd yes no
    · exact ⟨_, e, rfl, State.sameBytes_of_imgs rfl⟩

/-- Arming again a transfer of the class in progress. -/
theorem State.rearm_eq {s : State} {a : Act} (drq : s.drq = true) (act : s.act = a) (n : Nat) :
    s.arm a n = { s with xoff := 0, xcnt := n, busy := true } := by
  rw [State.arm, ← drq, ← act]

section
variable {s : State} {u : Drive} {im : Image} {tr' sr' : Byte}

/-- A multiple-sector transfer goes on at the next address, with either re-arm, if the image is there (R196, R197). -/
theorem advanceAndRearm_next (sel : s.sel = some u) (present : s.img u = some im)
    (next : NextSector im.secCount s.tr s.sr tr' sr') (rearm : State → State) :
    advanceAndRearm rearm s = rearm { s with tr := tr', sr := sr' } := by
  rw [advanceAndRearm_present ((s.selImage_eq_some_iff im).mpr ⟨u, sel, present⟩), State.advance_eq next]

theorem advance_read_valid (drq : s.drq = true) (act : s.act = .readSector true) (sel : s.sel = some u)
    (present : s.img u = some im) (next : NextSector im.secCount s.tr s.sr tr' sr') (valid : im.Valid tr' sr') :
    advanceAndRearm (armSectorRead true) s =
      { s.fillStage (im.bytes.load (im.lin tr'.toNat sr'.toNat) im.secSize) with
        tr := tr', sr := sr', xoff := 0, xcnt := im.secSize, busy := true } := by
  rw [advanceAndRearm_next sel present next,
    armSectorRead_valid (s := { s with tr := tr', sr := sr' }) sel present ((im.hasSector_iff _ _).mpr valid)]
  exact State.rearm_eq (s := State.fillStage { s with tr := tr', sr := sr' } _) drq act im.secSize

theorem advance_read_invalid (sel : s.sel = some u) (present : s.img u = some im)
    (next : NextSector im.secCount s.tr s.sr tr' sr') (invalid : ¬ im.Valid tr' sr') :
    advanceAndRearm (armSectorRead true) s = State.raise { s with tr := tr', sr := sr' } .recordNotFound := by
  rw [advanceAndRearm_next sel present next]
  exact armSectorRead_invalid (s := { s with tr := tr', sr := sr' }) sel present
    (Image.hasSector_false_of_not_valid invalid) true

theorem advance_write_valid (drq : s.drq = true) (act : s.act = .writeSector true) (sel : s.sel = some u)
    (present : s.img u = some im) (next : NextSector im.secCount s.tr s.sr tr' sr') (valid : im.Valid tr' sr') :
    advanceAndRearm (armSectorWrite true) s =
      { s with tr := tr', sr := sr', xoff := 0, xcnt := im.secSize, busy := true } := by
  rw [advanceAndRearm_next sel present next,
    armSectorWrite_valid (s := { s with tr := tr', sr := sr' }) sel present ((im.hasSector_iff _ _).mpr valid)]
  exact State.rearm_eq (s := { s with tr := tr', sr := sr' }) drq act im.secSize

theorem advance_write_invalid (sel : s.sel = some u) (present : s.img u = some im)
    (next : NextSector im.secCount s.tr s.sr tr' sr') (invalid : ¬ im.Valid tr' sr') :
    advanceAndRearm (armSectorWrite true) s = State.raise { s with tr := tr', sr := sr' } .recordNotFound := by
  rw [advanceAndRearm_next sel present next]
  exact armSectorWrite_invalid (s := { s with tr := tr', sr := sr' }) sel present
    (Image.hasSector_false_of_not_valid invalid) true

end

/-- Settles O29: the completion of a multiple-sector read, at the next address, past the last one, and with no image. -/
theorem multiSectorReadAdvancesOrFaults : Obligations.MultiSectorReadAdvancesOrFaults := by
  intro s b drq act staged last
  have run : exec .rdData s = .next ((advanceAndRearm (armSectorRead true) (s.latched b)).deliver b) := by
    rw [exec_rdData_last drq (.inr ⟨_, act⟩) staged last, completeRead_multi (s := s.latched b) act]
  refine ⟨fun u im tr' sr' sel present next valid => ?_, fun u im tr' sr' sel present next invalid => ?_, fun absent => ?_⟩
  · rw [advance_read_valid (s := s.latched b) drq act sel present next valid] at run
    refine ⟨_, run, State.sameBytes_of_imgs rfl, rfl, fun k hk => ?_, fun k hk => ?_⟩
    · exact (State.fillStage_getElem?_of_lt s (by simpa using hk)).trans (Memory.load_getElem? _ _ _ _ hk)
    · exact State.fillStage_getElem?_of_le s (by simpa using hk)
  · rw [advance_read_invalid (s := s.latched b) sel present next invalid] at run
    exact ⟨_, run, State.sameBytes_of_imgs rfl, rfl⟩
  · rw [advanceAndRearm_absent ((State.selImage_eq_none_iff (s.latched b)).mpr absent)] at run
    exact ⟨_, run, State.sameBytes_of_imgs rfl, rfl⟩

/-! ## WR_DATA -/

/-- The state with the byte `d` taken from the CPU and staged at the transfer's offset (R191). -/
def State.staged (s : State) (d : Byte) : State :=
  { s with dr := d, stage := s.stage.set s.xoff d, xoff := s.xoff + 1 }

theorem exec_wrData_pending {s : State} {m : Bool} (drq : s.drq = true) (act : s.act = .writeSector m) (d : Byte) :
    exec (.wrData d) s = .next (moveByteIn { s with dr := d }) := by
  rcases execWrData_cases d s with ⟨-, e⟩ | ⟨no, -⟩
  · exact e
  · exact absurd (s.writePending_iff.mpr ⟨drq, m, act⟩) (by simp [no])

theorem exec_wrData_mid {s : State} {m : Bool} (drq : s.drq = true) (act : s.act = .writeSector m) (d : Byte)
    (notLast : s.xoff + 1 ≠ s.xcnt) : exec (.wrData d) s = .next (s.staged d) := by
  rw [exec_wrData_pending drq act, moveByteIn_mid (s := { s with dr := d }) notLast]
  rfl

theorem exec_wrData_last {s : State} {m : Bool} (drq : s.drq = true) (act : s.act = .writeSector m) (d : Byte)
    (last : s.xoff + 1 = s.xcnt) : exec (.wrData d) s = .next (completeWrite (s.staged d)) := by
  rw [exec_wrData_pending drq act, moveByteIn_last (s := { s with dr := d }) last]
  rfl

/-- Settles O31: the byte is pending and not the last, so nothing is committed. -/
theorem dataWriteStagesOneByte : Obligations.DataWriteStagesOneByte :=
  fun _ _ d drq act notLast => ⟨_, exec_wrData_mid drq act d notLast, rfl, State.sameBytes_of_imgs rfl⟩

/-- Settles O34: the commit's three checks, each before anything is stored. -/
theorem failedCommitLosesTheSector : Obligations.FailedCommitLosesTheSector := by
  intro s m d drq act last
  have run := exec_wrData_last drq act d last
  refine ⟨fun absent => ?_, fun u im sel present misfit => ?_⟩
  · rw [completeWrite_absent (s := s.staged d) absent] at run
    exact ⟨_, run, State.sameBytes_of_imgs rfl, rfl⟩
  · rw [completeWrite_misfit (s := s.staged d) sel present
      (misfit.imp_right Image.hasSector_false_of_not_valid)] at run
    exact ⟨_, run, State.sameBytes_of_imgs rfl, rfl⟩

/-- The state with the byte `d` staged and the whole staged sector stored in the image `im` of unit `u` (R194, R68). -/
def State.committed (s : State) (d : Byte) (u : Drive) (im : Image) : State :=
  (s.staged d).setImg u (some (im.write (im.lin s.tr.toNat s.sr.toNat) ((s.staged d).stage.take s.xcnt)))

section
variable {s : State} {d : Byte} {u : Drive} {im : Image}

theorem exec_wrData_commit {m : Bool} (drq : s.drq = true) (act : s.act = .writeSector m) (last : s.xoff + 1 = s.xcnt)
    (sel : s.sel = some u) (present : s.img u = some im) (size : im.secSize = s.xcnt) (valid : im.Valid s.tr s.sr) :
    exec (.wrData d) s = .next (afterCommit (s.committed d u im)) := by
  rw [exec_wrData_last drq act d last,
    completeWrite_valid (s := s.staged d) sel present size ((im.hasSector_iff _ _).mpr valid)]
  rfl

theorem State.committed_img_same : (s.committed d u im).img u =
    some (im.write (im.lin s.tr.toNat s.sr.toNat) ((s.staged d).stage.take s.xcnt)) :=
  PerDrive.get_set_same ..

theorem State.committed_img_other {v : Drive} (h : v ≠ u) : (s.committed d u im).img v = s.img v :=
  PerDrive.get_set_other _ _ h

/-- Byte `i` of the staged sector, the byte now written among them. -/
theorem State.staged_getElem (fits : s.xcnt ≤ s.stage.length) {i : Nat} (h : i < ((s.staged d).stage.take s.xcnt).length) :
    ((s.staged d).stage.take s.xcnt)[i] = s.stagedWith d i := by
  have inBuffer : i < s.stage.length := by
    rw [List.length_take] at h
    omega
  simp only [State.staged, List.getElem_take, List.getElem_set, State.stagedWith, eq_comm (a := s.xoff)]
  split_ifs
  · rfl
  · exact (State.stageByte_eq (List.getElem?_eq_getElem inBuffer)).symm

/-- After the commit the addressed sector holds the staged bytes, and every other byte of the unit is as before. -/
theorem State.byteAt_committed (present : s.img u = some im) (fits : s.xcnt ≤ s.stage.length)
    (size : im.secSize = s.xcnt) (valid : im.Valid s.tr s.sr) (a : Nat) : (s.committed d u im).byteAt u a =
      if im.lin s.tr.toNat s.sr.toNat ≤ a ∧ a < im.lin s.tr.toNat s.sr.toNat + s.xcnt
      then some (s.stagedWith d (a - im.lin s.tr.toNat s.sr.toNat)) else s.byteAt u a := by
  have length : ((s.staged d).stage.take s.xcnt).length = s.xcnt := by
    simpa [State.staged] using fits
  have within : im.lin s.tr.toNat s.sr.toNat + ((s.staged d).stage.take s.xcnt).length ≤ im.size := by
    rw [length, ← size]
    exact Image.lin_add_le_size ((im.hasSector_iff _ _).mpr valid)
  rw [State.committed, State.byteAt_commit (s := s.staged d) present _ _ within]
  split_ifs with inside range range
  · exact congrArg some (State.staged_getElem fits _)
  · omega
  · omega
  · rfl

end

theorem State.byteAt_of_imgs {s t : State} (h : t.imgs = s.imgs) (u : Drive) (a : Nat) : t.byteAt u a = s.byteAt u a :=
  State.sameBytes_of_imgs h u a

theorem State.img_of_imgs {s t : State} (h : t.imgs = s.imgs) (u : Drive) : t.img u = s.img u := by
  rw [State.img, h, State.img]

/-- Settles O32: a single-sector write commits the staged sector and ends. -/
theorem lastDataWriteCommitsTheSector : Obligations.LastDataWriteCommitsTheSector := by
  intro s d u im drq act last fits sel present size valid
  have run := exec_wrData_commit (d := d) drq act last sel present size valid
  rw [afterCommit_single (s := s.committed d u im) (by rw [State.committed]; simp [State.staged, act])] at run
  exact ⟨_, _, run, rfl, State.committed_img_same, rfl, fun v hv => State.committed_img_other hv,
    State.byteAt_committed present fits size valid⟩

/-- Settles O33: the commit is that of a single-sector write; the advance after it faults or re-arms, and leaves the images. -/
theorem multiSectorWriteCommitsThenAdvances : Obligations.MultiSectorWriteCommitsThenAdvances := by
  intro s d u im tr' sr' drq act last fits sel present size valid next
  have run := exec_wrData_commit (d := d) drq act last sel present size valid
  have multi := afterCommit_multi (s := s.committed d u im) act
  obtain ⟨-, -, -, -, -, imgs, -⟩ := afterCommit_frame (s.committed d u im)
  refine ⟨_, _, run, fun valid' => ?rearmed, fun invalid' => ?faulted,
    (State.img_of_imgs imgs u).trans State.committed_img_same, rfl,
    fun v hv => (State.img_of_imgs imgs v).trans (State.committed_img_other hv),
    fun a => (State.byteAt_of_imgs imgs u a).trans (State.byteAt_committed present fits size valid a)⟩
  case rearmed =>
    rw [imgs, multi, advance_write_valid (s := s.committed d u im) drq act sel State.committed_img_same next valid']
    exact size ▸ rfl
  case faulted =>
    rw [imgs, multi, advance_write_invalid (s := s.committed d u im) sel State.committed_img_same next invalid']
    rfl

end Sys2Proof.Machine
end

section
/-! Whole transfers of a single sector (spec/44_data_transfer.md, spec/95_test_vectors.md V18, V22): the runs of data
accesses before the last byte, by induction on how many, and then the last. -/

namespace Sys2Proof.Machine

/-! ## Reading -/

theorem dataReads_succ {s t : State} {b : Byte} (run : exec .rdData s = .next t) (out : t.busOut = some b) (n : Nat) :
    dataReads (n + 1) s = (dataReads n t).map fun p => (b :: p.1, p.2) := by
  simp [dataReads, run, out]

/-- Reads that stop short of the last byte return the staged bytes from the offset on, and only move the offset. -/
theorem dataReads_before_last (j : Nat) (s : State) (drq : s.drq = true)
    (act : s.act = .readAddress ∨ s.act = .readSector false) (before : s.xoff + j < s.xcnt)
    (fits : s.xcnt ≤ s.stage.length) : ∃ b out, dataReads j s =
      some ((s.stage.drop s.xoff).take j, { s with xoff := s.xoff + j, dr := b, busOut := out }) := by
  induction j generalizing s with
  | zero => exact ⟨s.dr, s.busOut, rfl⟩
  | succ j ih =>
    have inBuffer : s.xoff < s.stage.length := by omega
    have run := exec_rdData_mid drq (act.imp_right fun h => ⟨_, h⟩) (List.getElem?_eq_getElem inBuffer) (by omega)
    obtain ⟨b, out, reads⟩ := ih ((s.latched s.stage[s.xoff]).deliver s.stage[s.xoff]) drq act
      (show s.xoff + 1 + j < s.xcnt by omega) fits
    refine ⟨b, out, ?_⟩
    rw [dataReads_succ run rfl, reads, List.drop_eq_getElem_cons inBuffer, List.take_succ_cons, Nat.add_comm j 1,
      ← Nat.add_assoc]
    rfl

/-- Reads up to the last byte return the rest of the staged bytes and end the command. -/
theorem dataReads_to_last (j : Nat) (s : State) (drq : s.drq = true)
    (act : s.act = .readAddress ∨ s.act = .readSector false) (last : s.xoff + (j + 1) = s.xcnt)
    (fits : s.xcnt ≤ s.stage.length) : ∃ z, dataReads (j + 1) s = some ((s.stage.drop s.xoff).take (j + 1), z) ∧
      z.busy = false ∧ z.drq = false ∧ z.act = .none ∧ z.imgs = s.imgs := by
  have inBuffer : s.xoff < s.stage.length := by omega
  have staged := List.getElem?_eq_getElem inBuffer
  induction j generalizing s with
  | zero =>
    rw [List.drop_eq_getElem_cons inBuffer]
    exact ⟨_, dataReads_succ (exec_rdData_last_single drq act staged last) rfl 0, rfl, rfl, rfl, rfl⟩
  | succ j ih =>
    have inBuffer' : s.xoff + 1 < s.stage.length := by omega
    have run := exec_rdData_mid drq (act.imp_right fun h => ⟨_, h⟩) staged (by omega)
    obtain ⟨z, reads, rest⟩ := ih ((s.latched s.stage[s.xoff]).deliver s.stage[s.xoff]) drq act
      (show s.xoff + 1 + (j + 1) = s.xcnt by omega) fits inBuffer' (List.getElem?_eq_getElem inBuffer')
    refine ⟨z, ?_, rest⟩
    rw [dataReads_succ run rfl, reads, List.drop_eq_getElem_cons inBuffer, List.take_succ_cons]
    rfl

/-- Settles O35: the reads before the last, and the last. -/
theorem readTransferDeliversTheStagedBytesInOrder : Obligations.ReadTransferDeliversTheStagedBytesInOrder := by
  intro s bs drq act start count nonempty staged
  have fits : s.xcnt ≤ s.stage.length := by
    have := congrArg List.length staged
    rw [List.length_take] at this
    omega
  have front (k : Nat) (hk : k ≤ bs.length) : (s.stage.drop s.xoff).take k = bs.take k := by
    rw [start, List.drop_zero]
    calc s.stage.take k = (s.stage.take bs.length).take k := by rw [List.take_take, min_eq_left hk]
      _ = bs.take k := by rw [staged]
  refine ⟨?_, fun k hk => ?_⟩
  · obtain ⟨j, length⟩ := Nat.exists_eq_succ_of_ne_zero (mt List.eq_nil_of_length_eq_zero nonempty)
    obtain ⟨z, reads, busy, drq', act', imgs⟩ := dataReads_to_last j s drq act (by omega) fits
    rw [← Nat.succ_eq_add_one, ← length, front _ le_rfl, List.take_length] at reads
    exact ⟨z, reads, busy, drq', act', State.sameBytes_of_imgs imgs⟩
  · obtain ⟨b, out, reads⟩ := dataReads_before_last k s drq act (by omega) fits
    rw [front k hk.le] at reads
    exact ⟨_, reads, rfl, drq, by simp [start]⟩

/-! ## Writing -/

theorem dataWrites_cons {s t : State} {d : Byte} (run : exec (.wrData d) s = .next t) (ds : List Byte) :
    dataWrites (d :: ds) s = dataWrites ds t := by
  simp [dataWrites, run]

theorem dataWrites_append {s t : State} {ds : List Byte} (run : dataWrites ds s = some t) (es : List Byte) :
    dataWrites (ds ++ es) s = dataWrites es t := by
  induction ds generalizing s with
  | nil =>
    obtain rfl : s = t := Option.some.inj run
    rfl
  | cons d ds ih =>
    unfold dataWrites at run
    split at run
    case h_1 t' first => rw [List.cons_append, dataWrites_cons first]; exact ih run
    all_goals cases run

theorem take_succ_set {l : List Byte} {i : Nat} (h : i < l.length) (d : Byte) :
    (l.set i d).take (i + 1) = l.take i ++ [d] := by
  rw [List.take_succ_eq_append_getElem (by simpa using h)]
  simp [List.take_set_of_le]

/-- Writes that stop short of the last byte only stage their bytes, from the offset on. -/
theorem dataWrites_before_last (ds : List Byte) (s : State) (drq : s.drq = true) (act : s.act = .writeSector false)
    (before : s.xoff + ds.length < s.xcnt) (fits : s.xcnt ≤ s.stage.length) : ∃ b stage,
      dataWrites ds s = some { s with dr := b, stage := stage, xoff := s.xoff + ds.length } ∧
        stage.length = s.stage.length ∧ stage.take (s.xoff + ds.length) = s.stage.take s.xoff ++ ds := by
  induction ds generalizing s with
  | nil => exact ⟨s.dr, s.stage, rfl, rfl, (List.append_nil _).symm⟩
  | cons d ds ih =>
    rw [List.length_cons] at before
    have fits' : s.xcnt ≤ (s.stage.set s.xoff d).length := by rwa [List.length_set]
    obtain ⟨b, stage, writes, length, front⟩ :=
      ih (s.staged d) drq act (show s.xoff + 1 + ds.length < s.xcnt by omega) fits'
    have offset : s.xoff + (d :: ds).length = s.xoff + 1 + ds.length := by
      rw [List.length_cons]
      omega
    refine ⟨b, stage, ?_, length.trans (List.length_set ..), ?_⟩
    · rw [dataWrites_cons (exec_wrData_mid drq act d (by omega)), writes, offset]
      rfl
    · calc stage.take (s.xoff + (d :: ds).length) = (s.stage.set s.xoff d).take (s.xoff + 1) ++ ds := offset ▸ front
        _ = s.stage.take s.xoff ++ d :: ds := by
          rw [take_succ_set (by omega), List.append_assoc, List.singleton_append]

/-- The bytes staged so far followed by the last one. -/
theorem State.stagedWith_eq {s : State} {front : List Byte} {d : Byte} (staged : s.stage.take front.length = front)
    (offset : s.xoff = front.length) {k : Nat} (h : k < (front ++ [d]).length) :
    s.stagedWith d k = (front ++ [d])[k] := by
  rw [State.stagedWith, offset]
  split_ifs with last
  · subst last
    exact (List.getElem_concat_length rfl h).symm
  · have before : k < front.length := by
      rw [List.length_append, List.length_singleton] at h
      omega
    have there : s.stage[k]? = some front[k] := by
      rw [← List.getElem?_take_of_lt before, staged, List.getElem?_eq_getElem before]
    rw [State.stageByte_eq there, List.getElem_append_left before]

/-- Settles O36: the writes before the last stage their bytes, and the last commits them with its own. -/
theorem writeTransferCommitsTheBytesInOrder : Obligations.WriteTransferCommitsTheBytesInOrder := by
  intro s ds u im drq act start count nonempty fits sel present size valid
  refine ⟨?_, fun k hk => ?_⟩
  · obtain ⟨front, d, rfl⟩ := (List.eq_nil_or_concat' ds).resolve_left nonempty
    have length : (front ++ [d]).length = front.length + 1 := List.length_append
    obtain ⟨b, stage, writes, sameLength, staged⟩ := dataWrites_before_last front s drq act (by omega) (by omega)
    rw [start, Nat.zero_add, List.take_zero, List.nil_append] at staged
    rw [start, Nat.zero_add] at writes
    obtain ⟨z, -, run, ended, -, -, other, bytes⟩ := lastDataWriteCommitsTheSector
      { s with dr := b, stage := stage, xoff := front.length } d u im drq act (length.symm.trans count.symm)
      (show s.xcnt ≤ stage.length by omega) sel present (size.trans count.symm) valid
    have all := (dataWrites_append writes [d]).trans (dataWrites_cons run [])
    refine ⟨z, all, by rw [ended], by rw [ended], other, fun k hk => ?_, fun a ha => ?_⟩
    · rw [bytes, if_pos ⟨Nat.le_add_right .., Nat.add_lt_add_left (count ▸ hk) _⟩, Nat.add_sub_cancel_left]
      exact congrArg some (State.stagedWith_eq staged rfl hk)
    · rw [← count] at ha
      exact (bytes a).trans (if_neg fun inside => ha.elim (Nat.not_lt.mpr inside.1) (Nat.not_le.mpr inside.2))
  · have shorter : (ds.take k).length = k := List.length_take_of_le hk.le
    obtain ⟨b, stage, writes, -⟩ := dataWrites_before_last (ds.take k) s drq act (by omega) (by omega)
    exact ⟨_, writes, rfl, by simp [start, shorter], State.sameBytes_of_imgs rfl⟩

end Sys2Proof.Machine
end

section
/-! What an instruction does not read (spec/10_state.md R36, R42; spec/20_memory.md R69, R75): a rule that commutes with a
change of some fields neither reads nor decides them. -/

namespace Sys2Proof.Machine

/-- The state with its density, its command register and its heads changed. -/
def State.relabel (dens : Bool → Bool) (cr : Byte → Byte) (heads : PerDrive Byte → PerDrive Byte) (s : State) : State :=
  { s with dens := dens s.dens, cr := cr s.cr, heads := heads s.heads }

/-! ## Sector transfers: density, command register and heads -/

section
variable (dens : Bool → Bool) (cr : Byte → Byte) (heads : PerDrive Byte → PerDrive Byte)

theorem armSectorRead_relabel (m : Bool) :
    Function.Commute (armSectorRead m) (State.relabel dens cr heads) := by
  intro s
  have same : (s.relabel dens cr heads).readSector s.sel s.tr.toNat s.sr.toNat =
    s.readSector s.sel s.tr.toNat s.sr.toNat := rfl
  unfold armSectorRead
  simp only [State.relabel] at same ⊢
  rw [same]
  cases s.readSector s.sel s.tr.toNat s.sr.toNat <;> rfl

theorem armSectorWrite_relabel (m : Bool) :
    Function.Commute (armSectorWrite m) (State.relabel dens cr heads) := by
  intro s
  have same : (s.relabel dens cr heads).checkSector s.sel s.tr.toNat s.sr.toNat =
    s.checkSector s.sel s.tr.toNat s.sr.toNat := rfl
  unfold armSectorWrite
  simp only [State.relabel] at same ⊢
  rw [same]
  cases s.checkSector s.sel s.tr.toNat s.sr.toNat <;> rfl

theorem State.advance_relabel (n : Nat) (s : State) :
    (s.relabel dens cr heads).advance n = (s.advance n).relabel dens cr heads := by
  unfold State.advance
  split_ifs with wraps wraps' wraps'
  · rfl
  · exact absurd wraps wraps'
  · exact absurd wraps' wraps
  · rfl

theorem advanceAndRearm_relabel {rearm : State → State}
    (commutes : Function.Commute rearm (State.relabel dens cr heads)) :
    Function.Commute (advanceAndRearm rearm) (State.relabel dens cr heads) := by
  intro s
  cases h : s.selImage with
  | none => rw [advanceAndRearm_absent h, advanceAndRearm_absent (s := s.relabel dens cr heads) h]; rfl
  | some im =>
    rw [advanceAndRearm_present h, advanceAndRearm_present (s := s.relabel dens cr heads) h, State.advance_relabel]
    exact commutes _

theorem completeRead_relabel : Function.Commute completeRead (State.relabel dens cr heads) := by
  intro s
  by_cases multi : s.act = .readSector true
  · rw [completeRead_multi multi, completeRead_multi (s := s.relabel dens cr heads) multi]
    exact advanceAndRearm_relabel dens cr heads (armSectorRead_relabel dens cr heads true) s
  · rw [completeRead_single multi, completeRead_single (s := s.relabel dens cr heads) multi]
    rfl

theorem afterCommit_relabel : Function.Commute afterCommit (State.relabel dens cr heads) := by
  intro s
  by_cases multi : s.act = .writeSector true
  · rw [afterCommit_multi multi, afterCommit_multi (s := s.relabel dens cr heads) multi]
    exact advanceAndRearm_relabel dens cr heads (armSectorWrite_relabel dens cr heads true) s
  · rw [afterCommit_single multi, afterCommit_single (s := s.relabel dens cr heads) multi]
    rfl

theorem completeWrite_relabel : Function.Commute completeWrite (State.relabel dens cr heads) := by
  intro s
  cases h : s.selImage with
  | none =>
    have absent := s.selImage_eq_none_iff.mp h
    rw [completeWrite_absent absent, completeWrite_absent (s := s.relabel dens cr heads) absent]
    rfl
  | some im =>
    obtain ⟨u, sel, present⟩ := (s.selImage_eq_some_iff im).mp h
    by_cases fits : im.secSize = s.xcnt ∧ im.hasSector s.tr.toNat s.sr.toNat = true
    · rw [completeWrite_valid sel present fits.1 fits.2,
        completeWrite_valid (s := s.relabel dens cr heads) sel present fits.1 fits.2]
      exact afterCommit_relabel dens cr heads (s.setImg u (some _))
    · rw [not_and_or, Bool.not_eq_true] at fits
      rw [completeWrite_misfit sel present fits, completeWrite_misfit (s := s.relabel dens cr heads) sel present fits]
      rfl

theorem moveByteOut_relabel : Function.Commute moveByteOut (State.relabel dens cr heads) := by
  intro s
  by_cases last : s.xoff + 1 = s.xcnt
  · rw [moveByteOut_last last, moveByteOut_last (s := s.relabel dens cr heads) last]
    exact completeRead_relabel dens cr heads (s.latched (s.stageByte s.xoff))
  · rw [moveByteOut_mid last, moveByteOut_mid (s := s.relabel dens cr heads) last]
    rfl

theorem moveByteIn_relabel : Function.Commute moveByteIn (State.relabel dens cr heads) := by
  intro s
  by_cases last : s.xoff + 1 = s.xcnt
  · rw [moveByteIn_last last, moveByteIn_last (s := s.relabel dens cr heads) last]
    exact completeWrite_relabel dens cr heads (s.staged s.dr)
  · rw [moveByteIn_mid last, moveByteIn_mid (s := s.relabel dens cr heads) last]
    rfl

end

theorem exec_rdData (s : State) : exec .rdData s = .next
    (if s.readPending then (moveByteOut s).deliver (s.stageByte s.xoff) else s.deliver s.dr) := by
  rcases execRdData_cases s with ⟨pending, e⟩ | ⟨pending, e⟩ <;> simp [pending, e]

theorem exec_wrData (d : Byte) (s : State) : exec (.wrData d) s = .next
    (if s.writePending then moveByteIn { s with dr := d } else { s with dr := d }) := by
  rcases execWrData_cases d s with ⟨pending, e⟩ | ⟨pending, e⟩ <;> simp [pending, e]

section
variable {s t : State} (dens : Bool → Bool) (cr : Byte → Byte) (heads : PerDrive Byte → PerDrive Byte)

theorem exec_rdData_relabel (h : exec .rdData s = .next t) :
    exec .rdData (s.relabel dens cr heads) = .next (t.relabel dens cr heads) := by
  have same : (s.relabel dens cr heads).readPending = s.readPending := rfl
  obtain rfl := Host.Outcome.next.inj ((exec_rdData s).symm.trans h)
  rw [exec_rdData, same]
  split_ifs
  · rw [moveByteOut_relabel]; rfl
  · rfl

theorem exec_wrData_relabel {d : Byte} (h : exec (.wrData d) s = .next t) :
    exec (.wrData d) (s.relabel dens cr heads) = .next (t.relabel dens cr heads) := by
  have same : (s.relabel dens cr heads).writePending = s.writePending := rfl
  obtain rfl := Host.Outcome.next.inj ((exec_wrData d s).symm.trans h)
  rw [exec_wrData, same]
  split_ifs
  · exact congrArg _ (moveByteIn_relabel dens cr heads { s with dr := d })
  · rfl

end

/-! ## Commands: density and command register -/

section
variable (dens : Bool → Bool) (cr : Byte → Byte)

theorem restore_relabel : Function.Commute restore (State.relabel dens cr id) := by
  intro s
  rw [restore_eq, restore_eq]
  rfl

theorem seek_relabel : Function.Commute seek (State.relabel dens cr id) := by
  intro s
  rw [seek_eq, seek_eq]
  rfl

theorem stepOnce_relabel (d : Dir) (t : Bool) : Function.Commute (stepOnce d t) (State.relabel dens cr id) := by
  intro s
  rw [stepOnce_eq, stepOnce_eq]
  rfl

theorem stepToward_relabel (d : Dir) (t : Bool) : Function.Commute (stepToward d t) (State.relabel dens cr id) :=
  fun s => stepOnce_relabel dens cr d t { s with sdir := d }

theorem readAddress_relabel : Function.Commute readAddress (State.relabel dens cr id) := by
  intro s
  cases h : s.selImage with
  | none =>
    have absent := s.selImage_eq_none_iff.mp h
    rw [readAddress_absent absent, readAddress_absent (s := s.relabel dens cr id) absent]
    rfl
  | some im =>
    obtain ⟨u, sel, present⟩ := (s.selImage_eq_some_iff im).mp h
    rw [readAddress_present sel present, readAddress_present (s := s.relabel dens cr id) sel present]
    rfl

theorem commandRule_relabel (c : Byte) : Function.Commute (commandRule c) (State.relabel dens cr id) := by
  unfold commandRule
  cases commandClass c
  case restore => exact restore_relabel dens cr
  case seek => exact seek_relabel dens cr
  case step => exact fun s => stepOnce_relabel dens cr s.sdir _ s
  case stepIn | stepOut => exact stepToward_relabel dens cr _ _
  case readSector => exact armSectorRead_relabel dens cr id _
  case writeSector => exact armSectorWrite_relabel dens cr id _
  case readAddress => exact readAddress_relabel dens cr
  case forceInterrupt | reservedE | reservedF => exact fun _ => rfl

end

/-! ## The obligations -/

theorem exec_wrCommand_relabel {c : Byte} {s t : State} (dens : Bool → Bool) (cr : Byte → Byte)
    (h : exec (.wrCommand c) s = .next t) :
    ∃ dens' cr', exec (.wrCommand c) (s.relabel dens cr id) = .next (t.relabel dens' cr' id) := by
  rcases exec_wrCommand_next h with ⟨busy, notForce, rfl⟩ | ⟨acc, rfl⟩
  · exact ⟨dens, cr, exec_wrCommand_busy busy notForce⟩
  · refine ⟨dens, id, (exec_wrCommand_accepted (s := s.relabel dens cr id) acc).trans (congrArg _ ?_)⟩
    exact commandRule_relabel dens id c (s.accept c)

/-- From a state with another density and command register an instruction goes to the same state, but for those two. -/
theorem exec_relabel {i : Instr} {s t : State} (dens : Bool → Bool) (cr : Byte → Byte) (h : exec i s = .next t) :
    ∃ dens' cr', exec i (s.relabel dens cr id) = .next (t.relabel dens' cr' id) := by
  cases i
  case restore | seek | step | stepIn | stepOut | readSector | writeSector | readAddress | forceInterrupt | reservedE |
      reservedF =>
    rw [exec_command rfl] at h ⊢
    exact exec_wrCommand_relabel dens cr h
  case wrCommand c => exact exec_wrCommand_relabel dens cr h
  case rdData => exact ⟨dens, cr, exec_rdData_relabel dens cr id h⟩
  case wrData d => exact ⟨dens, cr, exec_wrData_relabel dens cr id h⟩
  case wrTrack d =>
    cases (exec_wrTrack d s).symm.trans h
    exact ⟨dens, cr, exec_wrTrack d _⟩
  case wrSector d =>
    cases (exec_wrSector d s).symm.trans h
    exact ⟨dens, cr, exec_wrSector d _⟩
  case wrControl d => cases h; exact ⟨id, cr, rfl⟩
  case rdStatus | rdTrack | rdSector | wrUnused | rdUnused | rdId => cases h; exact ⟨dens, cr, rfl⟩

/-- Settles O54: the two states after differ in density and command register alone. -/
theorem densityAndCommandRegisterAreUnobservable : Obligations.DensityAndCommandRegisterAreUnobservable := by
  intro i s t d c h
  obtain ⟨dens', cr', run⟩ := exec_relabel (fun _ => d) (fun _ => c) h
  exact ⟨_, run, rfl, rfl⟩

theorem commandWrite_relabel_heads {c : Byte} {body : State → State} {s t : State} (p : PerDrive Byte)
    (commutes : Function.Commute body (State.relabel id id fun _ => p)) (h : commandWrite c body s = .next t) :
    commandWrite c body { s with heads := p } = .next { t with heads := p } := by
  rcases commandWrite_cases h with ⟨busy, same⟩ | ⟨idle, rfl⟩
  · subst t
    exact commandWrite_busy (s := { s with heads := p }) busy c body
  · exact (commandWrite_idle (s := { s with heads := p }) idle c body).trans (congrArg _ (commutes (s.accept c)))

/-- Settles O55: arming and the data register read no head and move none. -/
theorem sectorTransfersIgnoreTheHeads : Obligations.SectorTransfersIgnoreTheHeads := by
  intro s t p i form h
  rcases form with ⟨m, l, e, u, x, rfl⟩ | ⟨m, l, e, u, a, rfl⟩ | rfl | ⟨d, rfl⟩
  · exact commandWrite_relabel_heads p (armSectorRead_relabel id id _ m) h
  · exact commandWrite_relabel_heads p (armSectorWrite_relabel id id _ m) h
  · exact exec_rdData_relabel id id (fun _ => p) h
  · exact exec_wrData_relabel id id (fun _ => p) h

/-- A rule that does not read the command register leaves, for two bytes, states that differ in that register alone. -/
theorem commandWrite_ignores_byte {body : State → State}
    (commutes : ∀ cr, Function.Commute body (State.relabel id cr id)) (c c' : Byte) (s : State) :
    ∃ y z, commandWrite c body s = .next y ∧ commandWrite c' body s = .next z ∧ { z with cr := y.cr } = y := by
  cases busy : s.busy
  · refine ⟨_, _, commandWrite_idle busy c body, commandWrite_idle busy c' body, ?_⟩
    have other : body (s.accept c') = (body (s.accept c)).relabel id (fun _ => c') id := commutes (fun _ => c') (s.accept c)
    rw [other]
    rfl
  · exact ⟨s, s, commandWrite_busy busy c body, commandWrite_busy busy c' body, rfl⟩

/-- Settles O18: both bytes run the same rule, which does not read the command register. -/
theorem ignoredFlagBitsReachOnlyCR : Obligations.IgnoredFlagBitsReachOnlyCR := by
  intro s i j form
  rcases form with ⟨h, v, r, h', v', r', rfl, rfl⟩ | ⟨h, v, r, h', v', r', rfl, rfl⟩ |
    ⟨t, h, v, r, h', v', r', rfl, rfl⟩ | ⟨t, h, v, r, h', v', r', rfl, rfl⟩ | ⟨t, h, v, r, h', v', r', rfl, rfl⟩ |
    ⟨m, l, e, u, x, l', e', u', x', rfl, rfl⟩ | ⟨m, l, e, u, x, l', e', u', x', rfl, rfl⟩ |
    ⟨a, b, c, d, a', b', c', d', rfl, rfl⟩ | ⟨a, b, c, d, b', c', d', rfl, rfl⟩
  · exact commandWrite_ignores_byte (restore_relabel id) _ _ s
  · exact commandWrite_ignores_byte (seek_relabel id) _ _ s
  · exact commandWrite_ignores_byte (body := fun z => stepOnce z.sdir t z)
      (fun cr z => stepOnce_relabel id cr z.sdir t z) _ _ s
  · exact commandWrite_ignores_byte (fun cr => stepToward_relabel id cr .inward t) _ _ s
  · exact commandWrite_ignores_byte (fun cr => stepToward_relabel id cr .outward t) _ _ s
  · exact commandWrite_ignores_byte (fun cr => armSectorRead_relabel id cr id m) _ _ s
  · exact commandWrite_ignores_byte (fun cr => armSectorWrite_relabel id cr id m) _ _ s
  · exact commandWrite_ignores_byte (readAddress_relabel id) _ _ s
  · exact ⟨_, _, rfl, rfl, rfl⟩

theorem moveByteOut_dr (s : State) : (moveByteOut s).dr = s.stageByte s.xoff := by
  by_cases last : s.xoff + 1 = s.xcnt
  · rw [moveByteOut_last last]
    exact (completeRead_frame _).2.1
  · rw [moveByteOut_mid last]

/-- Settles O56: the byte comes from the staging buffer; images and selection come in at the completion only. -/
theorem readTransferIsASnapshot : Obligations.ReadTransferIsASnapshot := by
  intro s t p q h
  obtain rfl := Host.Outcome.next.inj ((exec_rdData s).symm.trans h)
  refine ⟨_, exec_rdData _, ?_⟩
  have same : State.readPending { s with imgs := p, sel := q } = s.readPending := rfl
  rw [same]
  split_ifs
  · refine ⟨rfl, (moveByteOut_dr _).trans (moveByteOut_dr s).symm, fun notLast => ?_⟩
    rw [moveByteOut_mid notLast, moveByteOut_mid (s := { s with imgs := p, sel := q }) notLast]
    rfl
  · exact ⟨rfl, rfl, fun _ => rfl⟩

end Sys2Proof.Machine
end

section
/-! The writers of each element of state (spec/10_state.md R35 to R40, spec/60_exceptions.md R227, R228): who can change it,
over every instruction by `ExecResult`, and over every step. -/

namespace Sys2Proof.Machine

/-! ## What moving a byte keeps -/

/-- A transfer goes on, the outcome flags as they were, or the command has ended. -/
abbrev State.GoesOnOrEnds (s t : State) : Prop :=
  (t.irq = s.irq ∧ t.err = s.err ∧ t.drq = true) ∨ (t.irq = true ∧ t.busy = false ∧ t.drq = false)

theorem completeWrite_frame (s : State) :
    let t := completeWrite s
    t.cr = s.cr ∧ t.sel = s.sel ∧ t.dens = s.dens ∧ t.heads = s.heads ∧ s.GoesOnOrEnds t := by
  intro t
  unfold t
  rcases completeWrite_cases s with ⟨f, e⟩ | ⟨u, im, -, -, -, -, e⟩ <;> rw [e]
  · exact ⟨rfl, rfl, rfl, rfl, .inr ⟨rfl, rfl, rfl⟩⟩
  · obtain ⟨cr, -, sel, dens, heads, -, ends⟩ := afterCommit_frame (s.setImg u (some _))
    exact ⟨cr, sel, dens, heads, ends⟩

theorem moveByteOut_frame {s : State} (drq : s.drq = true) :
    let t := moveByteOut s
    t.cr = s.cr ∧ t.sel = s.sel ∧ t.dens = s.dens ∧ t.heads = s.heads ∧ t.imgs = s.imgs ∧ s.GoesOnOrEnds t := by
  intro t
  unfold t
  by_cases last : s.xoff + 1 = s.xcnt
  · rw [moveByteOut_last last]
    obtain ⟨cr, -, rest⟩ := completeRead_frame (s.latched (s.stageByte s.xoff))
    exact ⟨cr, rest⟩
  · rw [moveByteOut_mid last]
    exact ⟨rfl, rfl, rfl, rfl, rfl, .inl ⟨rfl, rfl, drq⟩⟩

theorem moveByteIn_frame {s : State} (drq : s.drq = true) :
    let t := moveByteIn s
    t.cr = s.cr ∧ t.sel = s.sel ∧ t.dens = s.dens ∧ t.heads = s.heads ∧ s.GoesOnOrEnds t := by
  intro t
  unfold t
  by_cases last : s.xoff + 1 = s.xcnt
  · rw [moveByteIn_last last]
    exact completeWrite_frame (s.staged s.dr)
  · rw [moveByteIn_mid last]
    exact ⟨rfl, rfl, rfl, rfl, .inl ⟨rfl, rfl, drq⟩⟩

theorem State.readPending_drq {s : State} (h : s.readPending = true) : s.drq = true := (s.readPending_iff.mp h).1

theorem State.writePending_drq {s : State} (h : s.writePending = true) : s.drq = true := (s.writePending_iff.mp h).1

/-! ## Selection and density -/

/-- Settles O49: no other kind of result changes either. -/
theorem onlyControlWritesChangeTheSelection : Obligations.OnlyControlWritesChangeTheSelection := by
  intro i s t h notControl
  cases exec_result h
  case rejected | forced | statusRead | drRead | drWritten => exact ⟨rfl, rfl⟩
  case accepted result =>
    obtain ⟨-, -, -, sel, dens, -⟩ := result.frame
    exact ⟨sel, dens⟩
  case byteRead pending =>
    obtain ⟨-, sel, dens, -⟩ := moveByteOut_frame (State.readPending_drq pending)
    exact ⟨sel, dens⟩
  case byteWritten d pending =>
    obtain ⟨-, sel, dens, -⟩ := moveByteIn_frame (s := { s with dr := d }) (State.writePending_drq pending)
    exact ⟨sel, dens⟩
  case register control => exact control notControl

/-! ## Heads -/

theorem State.head_of_heads {s t : State} (h : t.heads = s.heads) (u : Drive) : t.head u = s.head u := by
  rw [State.head, h, State.head]

/-- A result moves no head but the selected unit's, and only for a positioning command. -/
theorem CommandResult.head_writer {c : Byte} {s t : State} (h : CommandResult c s t) {u : Drive}
    (moved : t.head u ≠ s.head u) : c.toNat < 0x80 ∧ s.sel = some u := by
  cases h
  case positioned tr d f low onTrack =>
    refine ⟨low, by_contra fun other => moved ?_⟩
    exact (s.get_moveHead f u).trans (if_neg other)
  all_goals exact absurd rfl moved

theorem ExecResult.head_writer {i : Instr} {s t : State} (r : ExecResult s i t) {u : Drive}
    (moved : t.head u ≠ s.head u) : ∃ c, CarriesCommand i c ∧ c.toNat < 0x80 ∧ s.busy = false ∧ s.sel = some u := by
  cases r
  case accepted c idle _ _ carries result =>
    obtain ⟨low, sel⟩ := result.head_writer moved
    exact ⟨c, carries, low, idle, sel⟩
  case byteRead pending =>
    obtain ⟨-, -, -, heads, -⟩ := moveByteOut_frame (State.readPending_drq pending)
    exact absurd (State.head_of_heads heads u) moved
  case byteWritten d pending =>
    obtain ⟨-, -, -, heads, -⟩ := moveByteIn_frame (s := { s with dr := d }) (State.writePending_drq pending)
    exact absurd (State.head_of_heads heads u) moved
  case rejected | forced | statusRead | drRead | drWritten | register => exact absurd rfl moved

theorem clampHead_ne {h : Byte} (moved : clampHead h 40 ≠ h) : 39 < h.toNat ∧ clampHead h 40 = 39#8 := by
  have value := clampHead_toNat h
  have beyond : 39 < h.toNat := by
    by_contra within
    exact moved (BitVec.eq_of_toNat_eq (by omega))
  exact ⟨beyond, BitVec.eq_of_toNat_eq (by rw [value]; simp; omega)⟩

/-- Settles O50: the writers among the inputs, each with what it does. -/
theorem headsMoveOnlyByTheirWriters : Obligations.HeadsMoveOnlyByTheirWriters := by
  intro s t u stepped moved
  rcases step_cases stepped with ⟨-, rfl⟩ | ⟨inp, rest, script, ran⟩
  · exact absurd rfl moved
  refine ⟨inp, rest, script, ?_⟩
  cases inp
  case bus f =>
    obtain ⟨i, decoded, executed⟩ := runInput_bus ran
    obtain ⟨c, carries, low, idle, sel⟩ := (exec_result executed).head_writer (u := u) moved
    exact .inl ⟨f, c, rfl, carries.frame decoded, low, idle, sel⟩
  case init =>
    cases ran
    exact .inr (.inl ⟨rfl, by cases u <;> rfl⟩)
  case attach v file =>
    obtain ⟨empty, ⟨-, rfl⟩ | ⟨size, rfl⟩⟩ := hostAttach_cases ran
    · exact absurd rfl moved
    · rw [State.head_setHead] at moved ⊢
      split_ifs at moved ⊢ with same
      · subst same
        obtain ⟨beyond, clamped⟩ := clampHead_ne moved
        exact .inr (.inr ⟨file, rfl, empty, size, beyond, clamped⟩)
      · exact absurd rfl moved
  case detach v => cases ran; exact absurd rfl moved

/-! ## Image bytes -/

/-- A commit that changes a byte of unit `u` found `u` selected with an image, the address valid, and the byte in the
addressed sector. -/
theorem completeWrite_byte_writer {s : State} {u : Drive} {a : Nat} (changed : (completeWrite s).byteAt u a ≠ s.byteAt u a) :
    s.sel = some u ∧ ∃ im im', s.img u = some im ∧ (completeWrite s).img u = some im' ∧ im'.dirty = true ∧
      im.Valid s.tr s.sr ∧ im.lin s.tr.toNat s.sr.toNat ≤ a ∧ a < im.lin s.tr.toNat s.sr.toNat + im.secSize := by
  rcases completeWrite_cases s with ⟨f, e⟩ | ⟨v, im, sel, present, size, valid, e⟩ <;> rw [e] at changed ⊢
  · exact absurd rfl changed
  obtain ⟨-, -, -, -, -, imgs, -⟩ := afterCommit_frame
    (s.setImg v (some (im.write (im.lin s.tr.toNat s.sr.toNat) (s.stage.take s.xcnt))))
  rw [State.byteAt_of_imgs imgs] at changed
  rw [State.img_of_imgs imgs]
  obtain rfl : u = v := by_contra fun other => changed (State.byteAt_setImg_other s _ other a)
  have length : (s.stage.take s.xcnt).length ≤ im.secSize := size ▸ List.length_take_le ..
  have within := Image.lin_add_le_size valid
  rw [State.byteAt_commit present _ _ (by omega)] at changed
  split_ifs at changed with inside
  · refine ⟨sel, im, _, present, PerDrive.get_set_same .., rfl, (im.hasSector_iff _ _).mp valid, inside.1, ?_⟩
    omega
  · exact absurd rfl changed

theorem ExecResult.byte_writer {i : Instr} {s t : State} (r : ExecResult s i t) {u : Drive} {a : Nat}
    (changed : t.byteAt u a ≠ s.byteAt u a) : ∃ d, i = .wrData d ∧ s.sel = some u ∧ s.drq = true ∧
      (∃ m, s.act = .writeSector m) ∧ s.xoff + 1 = s.xcnt ∧ ∃ im im', s.img u = some im ∧ t.img u = some im' ∧
        im'.dirty = true ∧ im.Valid s.tr s.sr ∧ im.lin s.tr.toNat s.sr.toNat ≤ a ∧
          a < im.lin s.tr.toNat s.sr.toNat + im.secSize := by
  cases r
  case accepted result =>
    obtain ⟨-, -, -, -, -, imgs⟩ := result.frame
    exact absurd (State.byteAt_of_imgs imgs u a) changed
  case byteRead pending =>
    obtain ⟨-, -, -, -, imgs, -⟩ := moveByteOut_frame (State.readPending_drq pending)
    exact absurd (State.byteAt_of_imgs imgs u a) changed
  case byteWritten d pending =>
    obtain ⟨drq, act⟩ := s.writePending_iff.mp pending
    by_cases last : s.xoff + 1 = s.xcnt
    · rw [moveByteIn_last (s := { s with dr := d }) last] at changed ⊢
      obtain ⟨sel, commit⟩ := completeWrite_byte_writer (s := s.staged d) changed
      exact ⟨d, rfl, sel, drq, act, last, commit⟩
    · rw [moveByteIn_mid (s := { s with dr := d }) last] at changed
      exact absurd rfl changed
  case rejected | forced | statusRead | drRead | drWritten | register => exact absurd rfl changed

theorem State.byteAt_of_empty {s : State} {u : Drive} (h : s.img u = none) (a : Nat) : s.byteAt u a = none := by
  simp [State.byteAt, h]

theorem State.img_setImg_same (s : State) (u : Drive) (x : Option Image) : (s.setImg u x).img u = x :=
  PerDrive.get_set_same ..

/-- Settles O51: the writers among the inputs, each with what it does. -/
theorem imageBytesChangeOnlyByTheirWriters : Obligations.ImageBytesChangeOnlyByTheirWriters := by
  intro s t u a stepped changed
  rcases step_cases stepped with ⟨-, rfl⟩ | ⟨inp, rest, script, ran⟩
  · exact absurd rfl changed
  refine ⟨inp, rest, script, ?_⟩
  cases inp
  case bus f =>
    obtain ⟨i, decoded, executed⟩ := runInput_bus ran
    obtain ⟨d, rfl, commit⟩ := (exec_result executed).byte_writer (u := u) (a := a) changed
    obtain ⟨rfl, -⟩ := decodedFrameIsTheEncoding _ _ decoded
    exact .inl ⟨d, rfl, commit⟩
  case init =>
    cases ran
    exact .inr (.inr ⟨.inr rfl, State.byteAt_of_empty (State.reset_img u) a⟩)
  case attach v file =>
    obtain ⟨empty, ⟨-, rfl⟩ | ⟨size, rfl⟩⟩ := hostAttach_cases ran
    · exact absurd rfl changed
    · obtain rfl : u = v := by_contra fun other => changed (State.byteAt_setImg_other (s.begin rest) _ other a)
      exact .inr (.inl ⟨file, rfl, empty, size, State.byteAt_ofFile (s := (s.begin rest).setImg u _) size (State.img_setImg_same ..) a⟩)
  case detach v =>
    cases ran
    obtain rfl : u = v := by_contra fun other => changed (State.byteAt_setImg_other (s.begin rest) _ other a)
    exact .inr (.inr ⟨.inl rfl, State.byteAt_of_empty (State.img_setImg_same ..) a⟩)

/-! ## The latched error -/

/-- While an error is latched no transfer is in progress, so that of the instructions only a command clears it. -/
theorem ExecResult.err_clearer {i : Instr} {s t : State} (r : ExecResult s i t) (inv : s.Inv) {e : ControllerFault}
    (latched : s.err = some e) (cleared : t.err ≠ some e) :
    ∃ c, CarriesCommand i c ∧ commandClass c ≠ .reservedE ∧ commandClass c ≠ .reservedF ∧ t.cr = c := by
  have noTransfer : s.drq ≠ true := by
    intro drq
    obtain ⟨⟨-, err, -⟩, -⟩ := inv.completing drq
    simp [latched] at err
  cases r
  case forced c force carries => exact ⟨c, carries, by simp [force], by simp [force], rfl⟩
  case accepted c idle notE notF carries result => exact ⟨c, carries, notE, notF, result.frame.1⟩
  case byteRead pending => exact absurd (State.readPending_drq pending) noTransfer
  case byteWritten pending => exact absurd (State.writePending_drq pending) noTransfer
  case rejected | statusRead | drRead | drWritten | register => exact absurd latched cleared

/-- Settles O52: neither Attach nor Detach touches the flags. -/
theorem errorClearsOnlyByACommandOrInit : Obligations.ErrorClearsOnlyByACommandOrInit := by
  intro s t e inv latched stepped cleared
  rcases step_cases stepped with ⟨-, rfl⟩ | ⟨inp, rest, script, ran⟩
  · exact absurd latched cleared
  refine ⟨inp, rest, script, ?_⟩
  cases inp
  case bus f =>
    obtain ⟨i, decoded, executed⟩ := runInput_bus ran
    obtain ⟨c, carries, notE, notF, cr⟩ := (exec_result executed).err_clearer inv latched cleared
    exact .inl ⟨f, c, rfl, carries.frame decoded, notE, notF, cr⟩
  case init => cases ran; exact .inr ⟨rfl, rfl⟩
  case attach v file =>
    obtain ⟨-, ⟨-, rfl⟩ | ⟨-, rfl⟩⟩ := hostAttach_cases ran <;> exact absurd latched cleared
  case detach v => cases ran; exact absurd latched cleared

/-! ## The interrupt flag -/

/-- After a command byte that is answered. -/
theorem irq_of_wrCommand {s t : State} {c : Byte} (h : exec (.wrCommand c) s = .next t) :
    t.irq = if commandClass c = .forceInterrupt then c.getLsbD 3 else if s.busy then s.irq else !t.busy := by
  rcases exec_wrCommand_next h with ⟨busy, notForce, rfl⟩ | ⟨acc, rfl⟩
  · rw [if_neg notForce, if_pos busy]
  · by_cases force : commandClass c = .forceInterrupt
    · rw [if_pos force, commandRule_forceInterrupt force]
      rfl
    · obtain ⟨idle, -⟩ := acc.resolve_left force
      rw [if_neg force, if_neg (by simp [idle])]
      rcases (commandRule_result acc force (s.accept c)).ends with ⟨busy, -, -, -, -, irq⟩ | ⟨busy, -, -, -, -, irq⟩ <;>
        simp [busy, irq]

/-- A frame that carries the command byte `c` runs as the write of that byte. -/
theorem exec_of_commandFrame {f : List Byte} {c : Byte} (frame : CommandFrame f c) {i : Instr} (decoded : decode f = .ok i)
    (s : State) : exec i s = exec (.wrCommand c) s := by
  rcases frame with rfl | rfl
  · obtain ⟨encoded, -⟩ := decodedFrameIsTheEncoding _ i decoded
    exact exec_command encoded s
  · obtain rfl : Instr.wrCommand c = i := Except.ok.inj ((decode_writeFrame 0x0#4 c).symm.trans decoded)
    rfl

/-- What a data access does to the interrupt flag. -/
abbrev State.DataIrq (s t : State) : Prop :=
  if s.drq = true ∧ t.drq = false then t.irq = true ∧ t.busy = false else t.irq = s.irq

theorem State.GoesOnOrEnds.dataIrq {s t : State} (h : s.GoesOnOrEnds t) (drq : s.drq = true) : s.DataIrq t := by
  rcases h with ⟨irq, -, on⟩ | ⟨irq, busy, off⟩
  · simp [State.DataIrq, on, irq]
  · simp [State.DataIrq, drq, off, irq, busy]

/-- An access that moves no byte leaves both the data request and the flag. -/
theorem State.dataIrq_of_same {s t : State} (drq : t.drq = s.drq) (irq : t.irq = s.irq) : s.DataIrq t := by
  simp [State.DataIrq, drq, irq]

theorem dataIrq_of_rdData {s t : State} (h : exec .rdData s = .next t) : s.DataIrq t := by
  rcases execRdData_cases s with ⟨pending, e⟩ | ⟨-, e⟩ <;> cases e.symm.trans h
  · have drq := State.readPending_drq pending
    obtain ⟨-, -, -, -, -, ends⟩ := moveByteOut_frame drq
    exact State.GoesOnOrEnds.dataIrq (t := moveByteOut s) ends drq
  · exact State.dataIrq_of_same rfl rfl

theorem dataIrq_of_wrData {d : Byte} {s t : State} (h : exec (.wrData d) s = .next t) : s.DataIrq t := by
  rcases execWrData_cases d s with ⟨pending, e⟩ | ⟨-, e⟩ <;> cases e.symm.trans h
  · have drq := State.writePending_drq pending
    obtain ⟨-, -, -, -, ends⟩ := moveByteIn_frame (s := { s with dr := d }) drq
    exact State.GoesOnOrEnds.dataIrq (s := { s with dr := d }) ends drq
  · exact State.dataIrq_of_same rfl rfl

/-- No other transaction writes the flag. -/
theorem irq_of_other {f : List Byte} {i : Instr} {s t : State} (decoded : decode f = .ok i) (h : exec i s = .next t)
    (notCommand : ∀ c, ¬ CommandFrame f c) (notStatus : f ≠ readFrame 0x0#4) (notRead : f ≠ readFrame 0x3#4)
    (notWrite : ∀ d, f ≠ writeFrame 0x3#4 d) : t.irq = s.irq := by
  obtain ⟨frame, -⟩ := decodedFrameIsTheEncoding f i decoded
  cases exec_result h
  case forced carries => exact absurd (carries.frame decoded) (notCommand _)
  case accepted carries _ => exact absurd (carries.frame decoded) (notCommand _)
  case statusRead => exact absurd frame.symm notStatus
  case byteRead => exact absurd frame.symm notRead
  case byteWritten d _ => exact absurd frame.symm (notWrite d)
  case rejected | drRead | drWritten | register => rfl

/-- Settles O53: kind of input by kind of input, and for a frame by what it carries. -/
theorem interruptFlagHasTheListedWriters : Obligations.InterruptFlagHasTheListedWriters := by
  intro s t stepped
  rcases step_cases stepped with ⟨empty, rfl⟩ | ⟨inp, rest, script, ran⟩
  · exact ⟨fun _ => rfl, fun inp rest script => absurd (empty.symm.trans script) (by simp)⟩
  refine ⟨fun empty => absurd (empty.symm.trans script) (by simp), fun inp' rest' script' => ?_⟩
  obtain ⟨rfl, rfl⟩ := List.cons.inj (script.symm.trans script')
  refine ⟨?init, ?events, ?frames⟩
  case init => rintro rfl; cases ran; rfl
  case events =>
    rintro (⟨u, file, rfl⟩ | ⟨u, rfl⟩)
    · obtain ⟨-, ⟨-, rfl⟩ | ⟨-, rfl⟩⟩ := hostAttach_cases ran <;> rfl
    · cases ran; rfl
  case frames =>
    rintro f rfl
    obtain ⟨i, decoded, executed⟩ := runInput_bus ran
    refine ⟨fun c frame => ?command, ?status, ?data, irq_of_other (s := s.begin rest) decoded executed⟩
    case command => exact irq_of_wrCommand (s := s.begin rest) ((exec_of_commandFrame frame decoded _).symm.trans executed)
    case status =>
      rintro rfl
      obtain rfl : Instr.rdStatus = i := Except.ok.inj ((decode_readFrame 0x0#4).symm.trans decoded)
      cases executed
      rfl
    case data =>
      rintro (rfl | ⟨d, rfl⟩)
      · obtain rfl : Instr.rdData = i := Except.ok.inj ((decode_readFrame 0x3#4).symm.trans decoded)
        exact dataIrq_of_rdData (s := s.begin rest) executed
      · obtain rfl : Instr.wrData d = i := Except.ok.inj ((decode_writeFrame 0x3#4 d).symm.trans decoded)
        exact dataIrq_of_wrData (s := s.begin rest) executed

end Sys2Proof.Machine
end
